-- ==== Sys2Proof/Word.lean ====
section
/-! DEFINITION. The word, byte and block types (00_scope.md R8, R10) and nothing a repair would mend: the
arithmetic over them stands in Sys2Proof/Machine/Primitives.lean. -/

namespace Sys2Proof

/-- A word is a 32-bit unsigned value (R10). -/
abbrev Word := BitVec 32

/-- A byte is an 8-bit unsigned value (R10). -/
abbrev Byte := BitVec 8

/-- A block is sixteen words, 64 bytes (R8, R15). -/
abbrev Block := Vector Word 16

end Sys2Proof
end

