-- ==== Sys2Proof/Syntax.lean ====
section
/-! DEFINITION. The commands of the CORE: one constructor per row of spec/opcode_table.json (R82). -/

namespace Sys2Proof

/-- The four commands. None has an immediate, a register field or an explicit operand (R81). -/
inductive Instr where
  /-- INIT, 0x00000001: start a fresh computation (R105). -/
  | init
  /-- NEXT_BLOCK, 0x00000002: return the Block Producer's next block (R121). -/
  | nextBlock
  /-- PROCESS_BLOCK, 0x00000003: compress the block in BLK into the digest state (R164). -/
  | processBlock
  /-- FINALIZE, 0x00000004: mark the engine Finalized (R165). -/
  | finalize
  deriving DecidableEq, Repr

end Sys2Proof
end

