-- ==== Sys2Proof/Decode.lean ====
section
/-! DEFINITION. The command word's decoder, total on all 2^32 words (R80 to R85), and the encoder after it.
The bus exchanges whole 32-bit values and has no byte lanes (R62, R80), so the decoder reads a word, never bytes. -/

namespace Sys2Proof

/-- Why a command word names no command: the three kinds R83 lists. -/
inductive IllegalWord where
  /-- RSV, bits 31:8, is not 0 (R83). -/
  | reservedBits
  /-- RSV is 0 and OP is 0x00 (R83). -/
  | zeroOpcode
  /-- RSV is 0 and OP is in 0x05..0xFF (R83). -/
  | unassignedOpcode
  deriving DecidableEq, Repr

/-- What the decoder of R85 answers: one of the four commands, or ILLEGAL with its kind. -/
inductive Decoded where
  | command (i : Instr)
  | illegal (why : IllegalWord)
  deriving DecidableEq, Repr

/-- The OP field, bits 7:0 of a command word (R80). -/
def opField (v : Word) : Byte := v.extractLsb' 0 8

/-- The RSV field, bits 31:8 of a command word (R80). -/
def rsvField (v : Word) : BitVec 24 := v.extractLsb' 8 24

/-- The kind of a word that is none of the four commands (R83). -/
def illegalKind (v : Word) : IllegalWord :=
  if rsvField v ≠ 0 then .reservedBits
  else if opField v = 0 then .zeroOpcode
  else .unassignedOpcode

/-- The decoder of R85: an exact match on the whole word (R82), ILLEGAL for every other word. -/
def decode (v : Word) : Decoded :=
  if v = 0x00000001#32 then .command .init
  else if v = 0x00000002#32 then .command .nextBlock
  else if v = 0x00000003#32 then .command .processBlock
  else if v = 0x00000004#32 then .command .finalize
  else .illegal (illegalKind v)

/-- The command a decoded word names, none for ILLEGAL. -/
def Decoded.toInstr : Decoded → Option Instr
  | .command i => some i
  | .illegal _ => none

/-- The OP value of each command (R82). -/
def opcode : Instr → Byte
  | .init => 0x01
  | .nextBlock => 0x02
  | .processBlock => 0x03
  | .finalize => 0x04

/-- The command word of R80: RSV = 0 above OP. -/
def encode (i : Instr) : Word := (0#24 ++ opcode i : BitVec 32)

/-- The command the decoder reads from a word numbered as spec/opcode_table.json numbers it. Every command is one
32-bit word, "There is no other length" (R80), so a word of fewer or more bits decodes to nothing. -/
def decodeTableWord (nbits w : Nat) : Option Instr :=
  if nbits = 32 then (decode (BitVec.ofNat 32 w)).toInstr else none

end Sys2Proof
end

