-- ==== Sys2Proof/Config.lean ====
section
/-! DEFINITION. What one placement of the CORE fixes (BASE, OPEN in R9) and the values the spec leaves free
(R57, U7, U19). A free value is an opaque constant, so nothing in Lean can find a value for it. Each takes the number
of the instance's placement first (the model's own field State.place), so that two instances have a BASE and free
values each (R9, R220). -/

namespace Sys2Proof

/-- The spec's identity string (R2). -/
def Config.identity : String := "MD5-CORE/rustmd5-v7"

/-- Which 0x80-byte slot of the bus the register window of a placement fills. OPEN (R9, R51): no value can be proved,
nor that two placements have the same (DESIGN CHOICE for the form, notes/assumptions/14.md). -/
opaque Config.windowIndex : Nat → Nat

/-- BASE of a placement, the address of its register window: any multiple of 0x80 (R9, R51). -/
def Config.base (place : Nat) : Nat := 0x80 * Config.windowIndex place

/-- FREE VALUE: what a read of a register other than STATUS and CMD returns while BUSY = 1, by the placement and by the
number of values drawn there before (notes/assumptions/2.md). (R57: "an unspecified 32-bit value. A model draws this value freely, under no law"). -/
opaque Config.busyRead : Nat → Nat → Word

/-- FREE VALUE: how many prepared answers of the Byte Source a reset during a fill loses (R230, U19, D32), by the
placement and the number of values drawn there before (notes/assumptions/6.md). -/
opaque Config.lostAnswers : Nat → Nat → Nat

/-- FREE VALUE: how many bytes of the Byte Source's stream a reset during a fill loses (R230, U19, D32), by the same
two numbers. -/
opaque Config.lostBytes : Nat → Nat → Nat

end Sys2Proof
end

