-- ==== Sys2Proof/Machine/Primitives.lean ====
section
/-! DEFINITION. The word operators and the byte and word conversions of 00_scope.md R10 to R12. The addition `+32`
of R11 is `+` on Word, and `&`, `|`, `^`, `~` are Word's own bitwise operators. -/

namespace Sys2Proof.Machine

/-- `rotl32(x, s)`, for 1 <= s <= 31 (R11). -/
def rotl32 (x : Word) (s : Nat) : Word := (x <<< s) ||| (x >>> (32 - s))

/-- `le32(b0, b1, b2, b3)`: the first byte is the least significant (R12). -/
def le32 (b0 b1 b2 b3 : Byte) : Word :=
  b0.setWidth 32 ||| (b1.setWidth 32 <<< 8) ||| (b2.setWidth 32 <<< 16) ||| (b3.setWidth 32 <<< 24)

/-- `le64bytes(v)`: byte i is `v[8i+7:8i]` (R12). -/
def le64bytes (v : BitVec 64) : List Byte :=
  [v.extractLsb' 0 8, v.extractLsb' 8 8, v.extractLsb' 16 8, v.extractLsb' 24 8,
   v.extractLsb' 32 8, v.extractLsb' 40 8, v.extractLsb' 48 8, v.extractLsb' 56 8]

/-- `le32bytes(w)`: byte i is `w[8i+7:8i]` (R12). -/
def le32bytes (w : Word) : List Byte :=
  [w.extractLsb' 0 8, w.extractLsb' 8 8, w.extractLsb' 16 8, w.extractLsb' 24 8]

/-- `zeros(n)`: n bytes of 0x00 (R10). -/
def zeros (n : Nat) : List Byte := List.replicate n 0x00#8

/-- Word i of a buffer: the little-endian word of its 4-byte group i (R127). Total: a byte past the end reads 0. -/
def wordAt (buf : List Byte) (i : Nat) : Word :=
  le32 (buf.getD (4 * i) 0) (buf.getD (4 * i + 1) 0) (buf.getD (4 * i + 2) 0) (buf.getD (4 * i + 3) 0)

/-- `words16(buf)` of a 64-byte buffer: group i becomes word i (R12, R127). -/
def words16 (buf : List Byte) : Block :=
  #v[wordAt buf 0, wordAt buf 1, wordAt buf 2, wordAt buf 3,
     wordAt buf 4, wordAt buf 5, wordAt buf 6, wordAt buf 7,
     wordAt buf 8, wordAt buf 9, wordAt buf 10, wordAt buf 11,
     wordAt buf 12, wordAt buf 13, wordAt buf 14, wordAt buf 15]

end Sys2Proof.Machine
end

