-- ==== Sys2Proof/Machine/State.lean ====
section
/-! DEFINITION. The state as plain data: the CORE's elements (10_state.md R20), the Host agent's program and
variables (30_encoding.md R86), the Byte Source's answers to come (20_memory.md R58), and the order in which the
agents move (00_scope.md R7). State.reset is the machine right after hardware reset (R40, R230). -/

namespace Sys2Proof.Machine

/-! ## The CORE -/

/-- The Block Producer state (R24). -/
inductive PState where
  /-- Still pulling real bytes from the source. -/
  | reading
  /-- PADBUF holds a padding block that has not been returned yet. -/
  | emittingPadding
  /-- Terminal: all blocks exhausted. -/
  | done
  deriving DecidableEq, Repr

/-- The fault codes the CORE produces (R202); code 0, NONE, is no fault. -/
inductive FaultCode where
  | illegalCmd
  | nextWhileBlockPending
  | processWithoutBlock
  | processAfterFinalize
  | finalizeEarly
  | cmdWhileBusy
  | ioReadFailed
  deriving DecidableEq, Repr

/-- Four words in the roles A, B, C, D: the digest state, or the working variables a, b, c, d of one compression
(R22, R23). The working variables exist only inside one PROCESS_BLOCK completion, so State holds none. -/
structure Quad where
  a : Word
  b : Word
  c : Word
  d : Word
  deriving DecidableEq, Repr

/-- Every state element of the CORE (R20), but the working variables (R23). -/
structure CoreState where
  /-- H_A, digest state word A (R22). -/
  hA : Word
  /-- H_B, digest state word B (R22). -/
  hB : Word
  /-- H_C, digest state word C (R22). -/
  hC : Word
  /-- H_D, digest state word D (R22). -/
  hD : Word
  /-- PSTATE (R24). -/
  pstate : PState
  /-- PADBUF[0..15] (R25). -/
  padbuf : Block
  /-- LEN, the Running Length (R26). -/
  len : BitVec 64
  /-- BLK[0..15] (R27). -/
  blk : Block
  /-- BLK_VALID (R27). -/
  blkValid : Bool
  /-- EXHAUSTED (R28). -/
  exhausted : Bool
  /-- FINAL (R29). -/
  final : Bool
  /-- FAULT (R30). -/
  fault : Bool
  /-- FCODE (R30). -/
  fcode : BitVec 4
  /-- BUSY (R31). -/
  busy : Bool
  /-- PENDING, none for NONE (R31). -/
  pending : Option Instr
  deriving DecidableEq, Repr

/-! ## The Byte Source -/

/-- One answer to SourceFill(64) (R58): at most 64 bytes, bounded by the type, or Error. -/
inductive FillAnswer where
  | data (bytes : List Byte) (bound : bytes.length ≤ 64)
  | error
  deriving DecidableEq, Repr

/-- The Byte Source oracle (R7, R58) as data: the answers it gives first, in order, whatever they are, and then a
stream it delivers under the fill contract of R59. -/
structure ByteSource where
  answers : List FillAnswer
  stream  : List Byte
  deriving DecidableEq, Repr

/-! ## The Host -/

/-- A host variable (R86, R88): `t`, reserved for pseudo-instructions, or `vN`. -/
inductive HostVar where
  | t
  | v (n : Nat)
  deriving DecidableEq, Repr

/-- The width of a bus access; every register access is exactly 32 bits (R53). -/
inductive Width where
  | byte
  | half
  | word
  | double
  deriving DecidableEq, Repr

/-- What a bus access does: read into a host variable, or write a word. The value written by an access of another
width than 32 bits never reaches the CORE (R53), so a word stands for it. -/
inductive BusOp where
  | read (dst : HostVar)
  | write (v : Word)
  deriving DecidableEq, Repr

/-- One host bus access by its address, with its width (R51, R53). -/
structure BusAccess where
  addr  : Nat
  width : Width
  op    : BusOp
  deriving DecidableEq, Repr

/-- A statement of the host assembly (R86), and `access`, any bus access at all, for the widths and addresses that
R53 speaks of and R86's WR and RD cannot write. Labels are numbered. -/
inductive HostInstr where
  /-- `WR <off>, <imm32>` -/
  | wr (off : Nat) (imm : Word)
  /-- `RD <vN>, <off>` -/
  | rd (dst : HostVar) (off : Nat)
  /-- `BT <vN>, <bit>, <label>` -/
  | bt (var : HostVar) (bit : Fin 32) (target : Nat)
  /-- `BF <vN>, <bit>, <label>` -/
  | bf (var : HostVar) (bit : Fin 32) (target : Nat)
  /-- `J <label>` -/
  | j (target : Nat)
  /-- `<label>:` -/
  | label (l : Nat)
  /-- `SRC "<bytes>"` -/
  | src (bytes : List Byte)
  /-- A bus access by address and width (R51, R53). -/
  | access (a : BusAccess)
  deriving DecidableEq, Repr

/-- The Host agent: its program, the place of its next statement, and its variables, a list of (key, word) pairs
with keys strictly rising and no word 0; a variable not listed reads 0. -/
structure HostAgent where
  program : List HostInstr
  pc      : Nat
  vars    : List (Nat × Word)
  deriving DecidableEq, Repr

/-! ## The machine -/

/-- Whose move it is (R7), or the reset event of R230. -/
inductive Turn where
  | host
  | core
  | reset
  deriving DecidableEq, Repr

/-- The reasons a step stops with a fault. -/
inductive Fault where
  /-- BusError: raised by the bus for a host access of a wrong width, a misaligned or unmapped offset, or a write to
  a read-only register (R53, R55, R210). The spec records it as a host fault outcome, never final (R210, R244), and no
  CORE state changes. Safe: the model stops where the host is told of its own error. -/
  | busError
  deriving DecidableEq, Repr

/-- The reasons a step refuses. -/
inductive Refusal where
  /-- A command of the opcode table without a meaning: raised by no arm of this model. Safe. -/
  | notModelled (mnemonic : String)
  /-- Raised by a host branch whose label the program does not define exactly once: R86 gives such a program no
  meaning. Safe: no CORE state is touched. -/
  | badLabel (l : Nat)
  deriving DecidableEq, Repr

/-- The whole machine of R7: the CORE, the Host, the Byte Source and the turns to come, with two fields of the model's
own: the count of free values drawn so far (R57, notes/assumptions/2.md), and which placement this instance is, which
no register shows and no step changes: it selects BASE and the instance's own free values (R9, R220,
notes/assumptions/14.md). -/
structure State where
  core   : CoreState
  host   : HostAgent
  source : ByteSource
  sched  : List Turn
  draws  : Nat
  place  : Nat
  deriving DecidableEq, Repr

/-- The CORE after hardware reset, and after an INIT completion (R40, R151). -/
def CoreState.reset : CoreState where
  hA := 0x67452301#32
  hB := 0xefcdab89#32
  hC := 0x98badcfe#32
  hD := 0x10325476#32
  pstate := .reading
  padbuf := Vector.replicate 16 0#32
  len := 0#64
  blk := Vector.replicate 16 0#32
  blkValid := false
  exhausted := false
  final := false
  fault := false
  fcode := 0#4
  busy := false
  pending := none

/-- The machine right after hardware reset, with nothing placed: the CORE as R40 says, no host program, a Byte
Source whose stream is empty, no turn prescribed, and placement 0 (DESIGN CHOICE, notes/assumptions/3.md, 4.md and
14.md). -/
def State.reset : State where
  core := CoreState.reset
  host := ⟨[], 0, []⟩
  source := ⟨[], []⟩
  sched := []
  draws := 0
  place := 0

end Sys2Proof.Machine
end

