-- ==== Sys2Proof/Machine/Ops.lean ====
section
/-! DEFINITION. The shared operations over the CORE's state, the Byte Source and the Host's variables: latching a
fault and leaving it (R201, R214), issue and the end of a completion (R100, R104), handing over a block (R27),
SourceFill(64) (R58), and the host's variable store and labels (R86). -/

namespace Sys2Proof.Machine

/-! ## Faults: entry and return (the CORE's only exception mechanism, R200) -/

/-- The FCODE of a fault (R202). -/
def FaultCode.code : FaultCode → BitVec 4
  | .illegalCmd => 0x1#4
  | .nextWhileBlockPending => 0x2#4
  | .processWithoutBlock => 0x3#4
  | .processAfterFinalize => 0x4#4
  | .finalizeEarly => 0x5#4
  | .cmdWhileBusy => 0x6#4
  | .ioReadFailed => 0x7#4

/-- `raise Fault(code)`: latch the first fault only, and change nothing else (R201). -/
def CoreState.raise (c : CoreState) (f : FaultCode) : CoreState :=
  if c.fault then c else { c with fault := true, fcode := f.code }

/-- A fresh computation: what INIT does before its completion ends, and the only return from a fault but hardware
reset (R105, R214). BUSY and PENDING are the completion's to clear (R104). -/
def CoreState.fresh (c : CoreState) : CoreState :=
  { CoreState.reset with busy := c.busy, pending := c.pending }

/-! ## Issue and completion -/

/-- An accepted command becomes the pending one (R100, R31). -/
def CoreState.issue (c : CoreState) (i : Instr) : CoreState :=
  { c with pending := some i, busy := true }

/-- The end of every completion (R104): PENDING <- NONE, BUSY <- 0. -/
def CoreState.finish (c : CoreState) : CoreState :=
  { c with pending := none, busy := false }

/-! ## The block register and the digest state -/

/-- The Producer returns a block (R27, R28): BLK, BLK_VALID = 1 and EXHAUSTED = 0. -/
def CoreState.deliver (c : CoreState) (b : Block) : CoreState :=
  { c with blk := b, blkValid := true, exhausted := false }

/-- The digest state (H_A, H_B, H_C, H_D) (R22). -/
def CoreState.digestState (c : CoreState) : Quad := ⟨c.hA, c.hB, c.hC, c.hD⟩

/-- Write the digest state. -/
def CoreState.withDigest (c : CoreState) (q : Quad) : CoreState :=
  { c with hA := q.a, hB := q.b, hC := q.c, hD := q.d }

/-! ## The Byte Source -/

/-- `SourceFill(64)`: the one answer, and the source after it (R58). Past the prepared answers the source keeps the
fill contract over its stream: 64 bytes while it has them, then the rest (R59). -/
def ByteSource.fill (src : ByteSource) : FillAnswer × ByteSource :=
  match src.answers with
  | a :: rest => (a, { src with answers := rest })
  | [] => (.data (src.stream.take 64) (List.length_take_le 64 src.stream),
           { src with stream := src.stream.drop 64 })

/-- The source after a reset that abandoned a fill: it stands some answers and some bytes further on (R230, D32). -/
def ByteSource.lose (src : ByteSource) (answers bytes : Nat) : ByteSource :=
  { answers := src.answers.drop answers, stream := src.stream.drop bytes }

/-! ## State updates -/

/-- Replace the CORE. -/
def State.withCore (s : State) (c : CoreState) : State := { s with core := c }

/-- Replace the Byte Source. -/
def State.withSource (s : State) (src : ByteSource) : State := { s with source := src }

/-- Count one more free value as drawn (R57). -/
def State.draw (s : State) : State := { s with draws := s.draws + 1 }

/-! ## The host's variables and labels (R86) -/

/-- The key under which a host variable is listed. -/
def HostVar.key : HostVar → Nat
  | .t => 0
  | .v n => n + 1

/-- The word listed under a key, 0 where none is. -/
def readVars : List (Nat × Word) → Nat → Word
  | [], _ => 0#32
  | (k, x) :: rest, n => if n = k then x else readVars rest n

/-- List a word under a key, keeping the keys rising and no word 0. -/
def writeVars : List (Nat × Word) → Nat → Word → List (Nat × Word)
  | [], n, w => if w = 0#32 then [] else [(n, w)]
  | (k, x) :: rest, n, w =>
    if n < k then
      if w = 0#32 then (k, x) :: rest else (n, w) :: (k, x) :: rest
    else if n = k then
      if w = 0#32 then rest else (n, w) :: rest
    else (k, x) :: writeVars rest n w

/-- The canonical form of a variable list: keys strictly rising, no word 0. -/
def varsWf : List (Nat × Word) → Bool
  | [] => true
  | [(_, x)] => x != 0#32
  | (k, x) :: (k', x') :: rest => x != 0#32 && decide (k < k') && varsWf ((k', x') :: rest)

/-- The value of a host variable. -/
def HostAgent.get (h : HostAgent) (v : HostVar) : Word := readVars h.vars v.key

/-- `vN <- w`. -/
def HostAgent.set (h : HostAgent) (v : HostVar) (w : Word) : HostAgent :=
  { h with vars := writeVars h.vars v.key w }

/-- Where a label is defined, if the program defines it exactly once. -/
def labelTarget (p : List HostInstr) (l : Nat) : Option Nat :=
  if p.count (.label l) = 1 then some (p.idxOf (.label l)) else none

/-- The host goes to the statement at `n`. -/
def State.hostGoto (s : State) (n : Nat) : State := { s with host := { s.host with pc := n } }

/-- The host goes on to its next statement. -/
def State.hostNext (s : State) : State := s.hostGoto (s.host.pc + 1)

/-- The host variable `v` takes the word `w`. -/
def State.hostSet (s : State) (v : HostVar) (w : Word) : State := { s with host := s.host.set v w }

end Sys2Proof.Machine
end

