-- ==== Sys2Proof/Machine/Flags.lean ====
section
/-! DEFINITION. The STATUS register (10_state.md R34): every flag of the CORE, packed. The CORE has no other
condition codes (R38). -/

namespace Sys2Proof.Machine

/-- The encoding of PSTATE in STATUS[4:3] (R24); 0b11 is never produced. -/
def PState.bits : PState → BitVec 2
  | .reading => 0b00#2
  | .emittingPadding => 0b01#2
  | .done => 0b10#2

/-- The value STATUS reads, a pure function of the CORE (R34):
`zext_32({FCODE, 0b0, FAULT, FINAL, PSTATE, EXHAUSTED, BLK_VALID, BUSY})`. -/
def CoreState.status (c : CoreState) : Word :=
  (c.fcode ++ 0#1 ++ BitVec.ofBool c.fault ++ BitVec.ofBool c.final ++ c.pstate.bits ++
    BitVec.ofBool c.exhausted ++ BitVec.ofBool c.blkValid ++ BitVec.ofBool c.busy).setWidth 32

end Sys2Proof.Machine
end

