-- ==== Sys2Proof/Machine/Operands.lean ====
section
/-! DEFINITION. The register window (10_state.md R32 to R37, 20_memory.md R51 to R57): which offsets hold a
register, what each reads, and where an access by bus address lands. A command's operands are implicit state (R81),
so the window's registers are the only operands a host names. -/

namespace Sys2Proof.Machine

/-- The offset of CMD, the one writable register (R33, R55). -/
def cmdOffset : Nat := 0x00

/-- The offset of STATUS (R34). -/
def statusOffset : Nat := 0x04

/-- The offsets at which R32 places a register, 4-byte aligned: 0x00..0x1C and 0x40..0x7C. -/
def mappedOffset (off : Nat) : Bool :=
  off % 4 == 0 && (decide (off < 0x20) || (decide (0x40 ≤ off) && decide (off < 0x80)))

/-- What the register at a mapped offset reads when the CORE is idle (R52). -/
def CoreState.register (c : CoreState) (off : Nat) : Word :=
  if off = 0x00 then 0x00000000#32
  else if off = 0x04 then c.status
  else if off = 0x08 then c.len.extractLsb' 0 32
  else if off = 0x0C then c.len.extractLsb' 32 32
  else if off = 0x10 then c.hA
  else if off = 0x14 then c.hB
  else if off = 0x18 then c.hC
  else if off = 0x1C then c.hD
  else c.blk.toList.getD ((off - 0x40) / 4) 0#32

/-- `BusRead(off)` (R52): none for BusError, else the word and the machine after the read. No read changes the CORE
(R54). While BUSY = 1 every register but CMD and STATUS reads a free value, and the machine counts the draw (R57). The
value depends on the placement and the count alone: that is the model's form of a free draw (notes/assumptions/2.md). -/
def busRead (off : Nat) (s : State) : Option (Word × State) :=
  if mappedOffset off then
    if off = cmdOffset ∨ off = statusOffset ∨ s.core.busy = false then some (s.core.register off, s)
    else some (Config.busyRead s.place s.draws, s.draw)
  else none

/-- The offset an access at a bus address reaches, if it lies in the window at the placement's BASE (R51). -/
def windowOffset (place addr : Nat) : Option Nat :=
  if Config.base place ≤ addr ∧ addr < Config.base place + 0x80 then some (addr - Config.base place) else none

/-- The 16 digest bytes (R63, R166): H_A, H_B, H_C and H_D, each as 4 little-endian bytes. -/
def CoreState.digest (c : CoreState) : List Byte :=
  le32bytes c.hA ++ le32bytes c.hB ++ le32bytes c.hC ++ le32bytes c.hD

end Sys2Proof.Machine
end

