-- ==== Sys2Proof/Machine/Control.lean ====
section
/-! DEFINITION. The control family (40_control.md): how a CMD write is checked and issued (R100 to R103), the bus
write that carries it (R52), and INIT (R105). -/

namespace Sys2Proof.Machine

/-- `Pre(op)`, the acceptance precondition at issue (R101): none for OK, else the fault it raises. -/
def precondition (i : Instr) (c : CoreState) : Option FaultCode :=
  match i with
  | .init => none
  | .nextBlock => if c.blkValid then some .nextWhileBlockPending else none
  | .processBlock =>
    if c.final then some .processAfterFinalize
    else if c.blkValid = false then some .processWithoutBlock
    else none
  | .finalize => if c.pstate ≠ .done ∨ c.blkValid = true then some .finalizeEarly else none

/-- `CmdWrite(v)`: the checks of R100 in its order (R211). -/
def cmdWrite (v : Word) (c : CoreState) : CoreState :=
  if c.busy then
    if c.fault then c else c.raise .cmdWhileBusy
  else
    match decode v with
    | .command i =>
      if c.fault = true ∧ i ≠ .init then c
      else
        match precondition i c with
        | some f => c.raise f
        | none => c.issue i
    | .illegal _ => if c.fault then c else c.raise .illegalCmd

/-- `BusWrite(off, v)` (R52): none for BusError, which every register but CMD answers (R55). -/
def busWrite (off : Nat) (v : Word) (s : State) : Option State :=
  if mappedOffset off then
    if off = cmdOffset then some (s.withCore (cmdWrite v s.core)) else none
  else none

/-- INIT (R105): a fresh computation, the fault cleared; the Byte Source is not asked. A fault latched while the INIT was
pending is cleared too: R103 says that FAULT stays set after the pending command's completion, R105 and R40 that an
INIT completion clears it, and the model follows R105 (DESIGN CHOICE, notes/assumptions/17.md). -/
def execInit (s : State) : Host.Outcome State Fault Refusal :=
  .next (s.withCore s.core.fresh.finish)

end Sys2Proof.Machine
end

