-- ==== Sys2Proof/Machine/Engine.lean ====
section
/-! DEFINITION. The Compression Engine, PROCESS_BLOCK and FINALIZE (42_engine.md R150 to R166). -/

namespace Sys2Proof.Machine

/-! ## Round functions -/

/-- Round 1 function F (R152). -/
def roundF (x y z : Word) : Word := (x &&& y) ||| (~~~x &&& z)

/-- Round 2 function G (R153). -/
def roundG (x y z : Word) : Word := (x &&& z) ||| (y &&& ~~~z)

/-- Round 3 function H (R154), not the registers H_A..H_D. -/
def roundH (x y z : Word) : Word := x ^^^ y ^^^ z

/-- Round 4 function I (R155). -/
def roundI (x y z : Word) : Word := y ^^^ (x ||| ~~~z)

/-- `FN(j)`, the function of step j (R156). -/
def roundFn (j : Nat) : Word → Word → Word → Word :=
  match j / 16 with
  | 0 => roundF
  | 1 => roundG
  | 2 => roundH
  | _ => roundI

/-! ## Schedule tables -/

/-- `k(j)`, the word index of step j (R157). -/
def wordIndex (j : Nat) : Nat :=
  match j / 16 with
  | 0 => j % 16
  | 1 => (5 * j + 1) % 16
  | 2 => (3 * j + 5) % 16
  | _ => (7 * j) % 16

/-- S[r], the four rotate amounts of round r (R158). -/
def shiftRow (r : Nat) : List Nat :=
  match r with
  | 0 => [7, 12, 17, 22]
  | 1 => [5, 9, 14, 20]
  | 2 => [4, 11, 16, 23]
  | _ => [6, 10, 15, 21]

/-- `s(j)`, the rotate amount of step j (R158). -/
def shiftAmount (j : Nat) : Nat := (shiftRow (j / 16)).getD (j % 4) 0

/-- T[1..16] (R159). -/
def sineRow1 : List Word :=
  [0xd76aa478#32, 0xe8c7b756#32, 0x242070db#32, 0xc1bdceee#32,
   0xf57c0faf#32, 0x4787c62a#32, 0xa8304613#32, 0xfd469501#32,
   0x698098d8#32, 0x8b44f7af#32, 0xffff5bb1#32, 0x895cd7be#32,
   0x6b901122#32, 0xfd987193#32, 0xa679438e#32, 0x49b40821#32]

/-- T[17..32] (R159). -/
def sineRow2 : List Word :=
  [0xf61e2562#32, 0xc040b340#32, 0x265e5a51#32, 0xe9b6c7aa#32,
   0xd62f105d#32, 0x02441453#32, 0xd8a1e681#32, 0xe7d3fbc8#32,
   0x21e1cde6#32, 0xc33707d6#32, 0xf4d50d87#32, 0x455a14ed#32,
   0xa9e3e905#32, 0xfcefa3f8#32, 0x676f02d9#32, 0x8d2a4c8a#32]

/-- T[33..48] (R159). -/
def sineRow3 : List Word :=
  [0xfffa3942#32, 0x8771f681#32, 0x6d9d6122#32, 0xfde5380c#32,
   0xa4beea44#32, 0x4bdecfa9#32, 0xf6bb4b60#32, 0xbebfbc70#32,
   0x289b7ec6#32, 0xeaa127fa#32, 0xd4ef3085#32, 0x04881d05#32,
   0xd9d4d039#32, 0xe6db99e5#32, 0x1fa27cf8#32, 0xc4ac5665#32]

/-- T[49..64] (R159). -/
def sineRow4 : List Word :=
  [0xf4292244#32, 0x432aff97#32, 0xab9423a7#32, 0xfc93a039#32,
   0x655b59c3#32, 0x8f0ccc92#32, 0xffeff47d#32, 0x85845dd1#32,
   0x6fa87e4f#32, 0xfe2ce6e0#32, 0xa3014314#32, 0x4e0811a1#32,
   0xf7537e82#32, 0xbd3af235#32, 0x2ad7d2bb#32, 0xeb86d391#32]

/-- The constant table T[1..64], a literal table (R159). -/
def sineTable : List Word := sineRow1 ++ sineRow2 ++ sineRow3 ++ sineRow4

/-- `T[i]`, indexed from 1 (R14, R159). -/
def sineConst (i : Nat) : Word := sineTable.getD (i - 1) 0#32

/-! ## The transform -/

/-- `X[k]`, word k of a block (R150). -/
def blockWord (x : Block) (k : Nat) : Word := x.toList.getD k 0#32

/-- `StepValue(j, a, b, c, d, X)` (R160). "The order of the four additions inside t does not matter"; the constant
stands first, so that Lean's kernel, comparing two states with symbolic words, does not count a literal down. -/
def stepValue (j : Nat) (q : Quad) (x : Block) : Word :=
  q.b + rotl32 (sineConst (j + 1) + q.a + roundFn j q.b q.c q.d + blockWord x (wordIndex j)) (shiftAmount j)

/-- `Step(j, (a, b, c, d), X)`: the new value takes the role of b, and the others move on (R161). -/
def ladderStep (j : Nat) (q : Quad) (x : Block) : Quad := ⟨q.d, stepValue j q x, q.b, q.c⟩

/-- `Compress((A, B, C, D), X)`: the 64 steps in order from a copy of the state (R162). -/
def compress (q : Quad) (x : Block) : Quad :=
  (List.range 64).foldl (fun w j => ladderStep j w x) q

/-- `AddBack` (R163). -/
def addBack (s w : Quad) : Quad := ⟨s.a + w.a, s.b + w.b, s.c + w.c, s.d + w.d⟩

/-! ## PROCESS_BLOCK and FINALIZE -/

/-- DoProcess (R164): the one place where the digest state changes in a computation. -/
def CoreState.processBlock (c : CoreState) : CoreState :=
  { c.withDigest (addBack c.digestState (compress c.digestState c.blk)) with blkValid := false }

/-- PROCESS_BLOCK (R164). -/
def execProcessBlock (s : State) : Host.Outcome State Fault Refusal :=
  .next (s.withCore s.core.processBlock.finish)

/-- FINALIZE (R165): FINAL <- 1, and the digest is a pure read of H_A..H_D. -/
def execFinalize (s : State) : Host.Outcome State Fault Refusal :=
  .next (s.withCore { s.core with final := true }.finish)

end Sys2Proof.Machine
end

