-- ==== Sys2Proof/Machine/Producer.lean ====
section
/-! DEFINITION. The Block Producer and NEXT_BLOCK (41_producer.md R121 to R131). -/

namespace Sys2Proof.Machine

/-- The length field `(8 * LEN) mod 2^64` (R131). -/
def bitLength (len : BitVec 64) : BitVec 64 := 8#64 * len

/-- The 64-byte buffer of a final block whose padding fits, 0 <= n <= 55 real bytes (R126). -/
def fitBuffer (bytes : List Byte) (bitlen : BitVec 64) : List Byte :=
  bytes ++ [0x80#8] ++ zeros (55 - bytes.length) ++ le64bytes bitlen

/-- The 64-byte buffer of a final block whose padding spills, 56 <= n <= 63 real bytes (R128). -/
def spillBuffer (bytes : List Byte) : List Byte :=
  bytes ++ [0x80#8] ++ zeros (63 - bytes.length)

/-- The second padding block of the spill case: zeros and the length field (R128). -/
def lengthBlock (bitlen : BitVec 64) : Block :=
  words16 (zeros 56 ++ le64bytes bitlen)

/-- FullBlock (R124): the block as read; PSTATE stays Reading. -/
def CoreState.fullBlock (c : CoreState) (bytes : List Byte) : CoreState :=
  c.deliver (words16 bytes)

/-- FitPadding (R126): the padding within the block, and Done. -/
def CoreState.fitPadding (c : CoreState) (bytes : List Byte) (bitlen : BitVec 64) : CoreState :=
  { c with pstate := .done }.deliver (words16 (fitBuffer bytes bitlen))

/-- SpillPadding (R128): the marker in this block, the length in PADBUF, and EmittingPadding. -/
def CoreState.spillPadding (c : CoreState) (bytes : List Byte) (bitlen : BitVec 64) : CoreState :=
  { c with padbuf := lengthBlock bitlen, pstate := .emittingPadding }.deliver (words16 (spillBuffer bytes))

/-- FinalBlock (R125): the padding for the Running Length, which already counts these bytes. -/
def CoreState.finalBlock (c : CoreState) (bytes : List Byte) : CoreState :=
  if bytes.length ≤ 55 then c.fitPadding bytes (bitLength c.len)
  else c.spillPadding bytes (bitLength c.len)

/-- LEN <- (LEN + n) mod 2^64 (R123). -/
def CoreState.count (c : CoreState) (n : Nat) : CoreState :=
  { c with len := c.len + BitVec.ofNat 64 n }

/-- ReadStep (R122): act on the answer to SourceFill(64). -/
def CoreState.readStep (c : CoreState) (ans : FillAnswer) : CoreState :=
  match ans with
  | .error => c.raise .ioReadFailed
  | .data bytes _ =>
    if bytes.length = 64 then (c.count bytes.length).fullBlock bytes
    else (c.count bytes.length).finalBlock bytes

/-- EmitPadding (R129): return the buffered block, and Done. -/
def CoreState.emitPadding (c : CoreState) : CoreState :=
  { c with pstate := .done }.deliver c.padbuf

/-- ReportExhausted (R130). -/
def CoreState.reportExhausted (c : CoreState) : CoreState := { c with exhausted := true }

/-- NEXT_BLOCK (R121): only in Reading is the Byte Source asked, and once (R60). -/
def execNextBlock (s : State) : Host.Outcome State Fault Refusal :=
  match s.core.pstate with
  | .reading => .next ((s.withCore (s.core.readStep s.source.fill.1).finish).withSource s.source.fill.2)
  | .emittingPadding => .next (s.withCore s.core.emitPadding.finish)
  | .done => .next (s.withCore s.core.reportExhausted.finish)

end Sys2Proof.Machine
end

