-- ==== Sys2Proof/Machine/Dispatch.lean ====
section
/-! DEFINITION. exec: the completion of a pending command (40_control.md R104), one arm per command. -/

namespace Sys2Proof.Machine

def exec (i : Instr) (s : State) : Host.Outcome State Fault Refusal :=
  match i with
  | .init => Sys2Proof.Machine.execInit s
  | .nextBlock => Sys2Proof.Machine.execNextBlock s
  | .processBlock => Sys2Proof.Machine.execProcessBlock s
  | .finalize => Sys2Proof.Machine.execFinalize s

end Sys2Proof.Machine
end

