-- ==== Sys2Proof/Machine/HostProgram.lean ====
section
/-! DEFINITION. The Host agent: its statements and what each does (30_encoding.md R86), any bus access by address
and width (20_memory.md R51, R53), and the mnemonics and pseudo-instructions of R87 and R88. -/

namespace Sys2Proof.Machine

/-! ## Bus accesses -/

/-- `WR off, v`: BusWrite, then the next statement; a BusError is a host fault outcome (R210). -/
def hostWrite (off : Nat) (v : Word) (s : State) : Host.Outcome State Fault Refusal :=
  match busWrite off v s with
  | some s' => .next s'.hostNext
  | none => .fault .busError

/-- `RD dst, off`: BusRead into a host variable, then the next statement; a BusError is a host fault outcome (R210). -/
def hostRead (dst : HostVar) (off : Nat) (s : State) : Host.Outcome State Fault Refusal :=
  match busRead off s with
  | some (w, s') => .next (s'.hostSet dst w).hostNext
  | none => .fault .busError

/-- A bus access by address (R51): BusError unless it is 32 bits wide (R53) and lands in the window. -/
def hostAccess (a : BusAccess) (s : State) : Host.Outcome State Fault Refusal :=
  if a.width = .word then
    match windowOffset s.place a.addr with
    | some off =>
      match a.op with
      | .read dst => hostRead dst off s
      | .write v => hostWrite off v s
    | none => .fault .busError
  else .fault .busError

/-! ## Statements -/

/-- Go to a label; a label the program does not define exactly once is refused by name. -/
def hostJump (l : Nat) (s : State) : Host.Outcome State Fault Refusal :=
  match labelTarget s.host.program l with
  | some n => .next (s.hostGoto n)
  | none => .refused (.badLabel l)

/-- `BT` and `BF`: branch if the bit of the variable is the given value (R86). -/
def hostBranch (v : HostVar) (bit : Fin 32) (taken : Bool) (l : Nat) (s : State) :
    Host.Outcome State Fault Refusal :=
  if (s.host.get v).getLsbD bit = taken then hostJump l s else .next s.hostNext

/-- `SRC`: the platform places a stream before the Byte Source (R86, R233); the CORE does not change. -/
def hostSource (bytes : List Byte) (s : State) : Host.Outcome State Fault Refusal :=
  .next (s.withSource { s.source with stream := bytes }).hostNext

/-- One host statement (R86). -/
def hostStatement (i : HostInstr) (s : State) : Host.Outcome State Fault Refusal :=
  match i with
  | .wr off v => hostWrite off v s
  | .rd dst off => hostRead dst off s
  | .bt v bit l => hostBranch v bit true l s
  | .bf v bit l => hostBranch v bit false l s
  | .j l => hostJump l s
  | .label _ => .next s.hostNext
  | .src bytes => hostSource bytes s
  | .access a => hostAccess a s

/-! ## Mnemonics and pseudo-instructions -/

/-- A command mnemonic as a host statement: the CMD write of its word (R87). -/
def HostInstr.command (i : Instr) : HostInstr := .wr cmdOffset (encode i)

/-- WAIT (R88), with the label it defines: read STATUS until BUSY = 0. -/
def pseudoWait (lw : Nat) : List HostInstr :=
  [.label lw, .rd .t statusOffset, .bt .t 0 lw]

/-- DO <cmd> (R88). -/
def pseudoDo (i : Instr) (lw : Nat) : List HostInstr := .command i :: pseudoWait lw

/-- CHECK (R88), with the program's own Lfault. -/
def pseudoCheck (lfault : Nat) : List HostInstr := [.rd .t statusOffset, .bt .t 6 lfault]

/-- HASH (R88), with the labels l .. l+5 for its own and the program's Lfault. -/
def pseudoHash (l lfault : Nat) : List HostInstr :=
  List.flatten
    [pseudoDo .init l,
     .label (l + 1) :: pseudoDo .nextBlock (l + 2),
     pseudoCheck lfault,
     [.rd .t statusOffset, .bt .t 2 (l + 4)],
     pseudoDo .processBlock (l + 3),
     [.j (l + 1)],
     .label (l + 4) :: pseudoDo .finalize (l + 5),
     [.rd (.v 0) 0x10, .rd (.v 1) 0x14, .rd (.v 2) 0x18, .rd (.v 3) 0x1C]]

end Sys2Proof.Machine
end

