-- ==== Sys2Proof/Machine/Turns.lean ====
section
/-! DEFINITION. What each agent does with its turn (00_scope.md R7): the Core completes the pending command (R104),
the Host performs its next statement (R86), and the reset event (R230); and who moves where no turn is prescribed. -/

namespace Sys2Proof.Machine

/-- The Core's turn (R104): enabled exactly when BUSY = 1. With BUSY = 1 and PENDING = NONE, which no run reaches
(R31), no case of R104 applies and the completion only clears BUSY. A turn that is not enabled changes nothing. -/
def coreTurn (s : State) : Host.Outcome State Fault Refusal :=
  if s.core.busy then
    match s.core.pending with
    | some i => exec i s
    | none => .next (s.withCore s.core.finish)
  else .next s

/-- The Host's turn: its next statement. A program that has executed its last statement has no turn left (R244). -/
def hostTurn (s : State) : Host.Outcome State Fault Refusal :=
  match s.host.program[s.host.pc]? with
  | some i => hostStatement i s
  | none => .next s

/-- Whether a fill may be outstanding: NEXT_BLOCK is pending in Reading (R104, R230). -/
def CoreState.fillPending (c : CoreState) : Bool :=
  c.busy && decide (c.pending = some .nextBlock) && decide (c.pstate = .reading)

/-- Hardware reset (R230): every CORE element to R40, a pending command abandoned. After a reset during a fill the
place of the Byte Source is free (U19, D32). The Host is not reset. -/
def hardwareReset (s : State) : State :=
  if s.core.fillPending then
    ((s.withCore CoreState.reset).withSource
      (s.source.lose (Config.lostAnswers s.place s.draws) (Config.lostBytes s.place s.draws))).draw
  else s.withCore CoreState.reset

/-- One turn. -/
def takeTurn (t : Turn) (s : State) : Host.Outcome State Fault Refusal :=
  match t with
  | .host => hostTurn s
  | .core => coreTurn s
  | .reset => .next (hardwareReset s)

/-- The turn where the schedule prescribes none: the Core's while BUSY = 1, else the Host's. Any finite interleaving
of R7 is a schedule, and after it no completion waits for ever (R9, weak fairness). -/
def defaultTurn (s : State) : Turn := if s.core.busy then .core else .host

/-- The next turn, and the machine with that turn taken off its schedule. -/
def nextTurn (s : State) : Turn × State :=
  match s.sched with
  | t :: rest => (t, { s with sched := rest })
  | [] => (defaultTurn s, s)

/-- The width of a bus access that carries a given number of bits. -/
def accessWidth (nbits : Nat) : Width :=
  if nbits = 32 then .word
  else if nbits < 16 then .byte
  else if nbits < 32 then .half
  else .double

/-- Where step fetches: the Core next, with the command a word names pending. A word that names none never becomes
pending (R83), so the Host's next statement is its CMD write, an access of the width the word has: one of any other
width than 32 bits is no command write at all (R53, R80). -/
def placeCommand (s : State) (i : Option Instr) (nbits : Nat) (w : Word) : State :=
  match i with
  | some i => { s with core := s.core.issue i, sched := .core :: s.sched }
  | none => { s with
      host := { s.host with
        program := [if nbits = 32 then .wr cmdOffset w
          else .access ⟨Config.base s.place + cmdOffset, accessWidth nbits, .write w⟩],
        pc := 0 },
      sched := .host :: s.sched }

/-- `DO <cmd>` at the level of the CORE (R87, R88): the CMD write, then the completion if it was accepted. -/
def doCommand (i : Instr) (s : State) : Host.Outcome State Fault Refusal :=
  coreTurn (s.withCore (cmdWrite (encode i) s.core))

end Sys2Proof.Machine
end

