-- ==== Sys2Proof/Machine/Step.lean ====
section
/-! DEFINITION. step: one turn of one agent (00_scope.md R7). The CORE has no program counter (R21): what it fetches
is the pending command, and withFetchWord puts one there. -/

namespace Sys2Proof.Machine

/-- One step: the next turn is taken. -/
def step (s : State) : Host.Outcome State Fault Refusal :=
  takeTurn (nextTurn s).1 (nextTurn s).2

/-- The machine whose very next step runs the command word w: its command pending, as an accepted CMD write leaves
it (R100), and the Core's turn next (notes/assumptions/5.md). -/
def State.withFetchWord (s : State) (nbits w : Nat) : State :=
  placeCommand s (decodeTableWord nbits w) nbits (BitVec.ofNat 32 w)

end Sys2Proof.Machine
end

