-- ==== Sys2Proof/Machine/Instances.lean ====
section
/-! DEFINITION. Several CORE instances (60_exceptions.md R220): N_INSTANCES is OPEN (R9), so a system is a list of
any length, each instance with its own window, state, host and Byte Source, sharing nothing (the form is a DESIGN
CHOICE, notes/assumptions/11.md). -/

namespace Sys2Proof.Machine

/-- Every instance has a window of its own (R220): no two have the same BASE. Two different multiples of 0x80 (R51) are
windows that do not overlap, and two instances with different BASE are different placements, whose free values are
independent. -/
def ownWindows (sys : List State) : Prop := (sys.map fun s => Config.base s.place).Nodup

/-- A step of instance k of a system: it steps by itself. An instance that does not exist has no step. Where its step
stops (its host takes a BusError, or is refused), the run of the whole system stops: R220 is silent on it, and an
outcome has no place for the other instances (DESIGN CHOICE, notes/assumptions/11.md). -/
def stepInstance (k : Nat) (sys : List State) : Host.Outcome (List State) Fault Refusal :=
  match sys[k]? with
  | some s =>
    match step s with
    | .next s' => .next (sys.set k s')
    | .fault r => .fault r
    | .refused r => .refused r
  | none => .next sys

end Sys2Proof.Machine
end

