-- ==== Sys2Proof/Safety.lean ====
section
/-! DEFINITION. What claims are stated in: the invariants of a reachable CORE (10_state.md R39), the end of a run
(R244), the fill contract (20_memory.md R59), and the digest function of 41_producer.md R137 and 42_engine.md R170,
written apart from the machine's own path to it. -/

namespace Sys2Proof.Machine

/-! ## The invariants of R39 -/

/-- The seven invariants of R39, in its order (the first, PSTATE is not 0b11, is said of the encoding). -/
structure CoreState.Reachable39 (c : CoreState) : Prop where
  pstate_legal : c.pstate.bits ≠ 0b11#2
  busy_iff_pending : c.busy = false ↔ c.pending = none
  fault_code : (c.fault = false → c.fcode = 0#4) ∧ (c.fault = true → 1 ≤ c.fcode.toNat ∧ c.fcode.toNat ≤ 7)
  final_done : c.final = true → c.pstate = .done ∧ c.blkValid = false
  exhausted_done : c.exhausted = true → c.pstate = .done ∧ c.blkValid = false
  padbuf_length : c.pstate = .emittingPadding →
    (∀ k : Fin 16, k.val < 14 → c.padbuf[k] = 0#32) ∧
    c.padbuf[14] = (8#64 * c.len).extractLsb' 0 32 ∧ c.padbuf[15] = (8#64 * c.len).extractLsb' 32 32
  valid_not_final : c.blkValid = true → c.final = false

/-- What the issue of a pending command checked still holds while it is pending, because no other agent can change
it (DEDUCED from R101: "reads only state that no other agent can change"). -/
def CoreState.pendingAccepted (c : CoreState) : Prop :=
  ∀ i, c.pending = some i → precondition i c = none

/-- The inductive invariant: R39 and the accepted precondition of the pending command. -/
structure CoreState.Inv (c : CoreState) : Prop where
  rules : c.Reachable39
  accepted : c.pendingAccepted

/-- The invariant of the whole machine: the CORE's, and the host variables in canonical form. -/
structure State.Inv (s : State) : Prop where
  core : s.core.Inv
  vars : varsWf s.host.vars = true

/-! ## The end of a run -/

/-- A run is at its end: the host program has executed its last statement, with BUSY = 0 (R244). -/
def State.isFinal (s : State) : Prop := s.host.program.length ≤ s.host.pc ∧ s.core.busy = false

/-- The digest may be read: FINAL = 1 and BUSY = 0 (R63, R243). -/
def CoreState.digestReady (c : CoreState) : Prop := c.final = true ∧ c.busy = false

/-! ## The Byte Source's duty -/

/-- All the bytes a source delivers: its prepared answers' and then its stream (R60). -/
def deliveredBytes : List FillAnswer → List Byte → List Byte
  | [], stream => stream
  | .data bytes _ :: rest, stream => bytes ++ deliveredBytes rest stream
  | .error :: rest, stream => deliveredBytes rest stream

/-- The fill contract (R59): an answer of fewer than 64 bytes only when no byte follows it. That a source which keeps it
gives no Error answer is the model's choice, for R59 binds the Data answers alone (DESIGN CHOICE,
notes/assumptions/18.md). -/
def keepsContract : List FillAnswer → List Byte → Prop
  | [], _ => True
  | .data bytes _ :: rest, stream =>
    (bytes.length < 64 → deliveredBytes rest stream = []) ∧ keepsContract rest stream
  | .error :: _, _ => False

/-! ## The digest function -/

/-- `Padded(s)` (R137). -/
def padded (s : List Byte) : List Byte :=
  s ++ [0x80#8] ++ zeros ((55 + 64 - s.length % 64) % 64) ++ le64bytes (BitVec.ofNat 64 (8 * s.length))

/-- How many blocks the Producer returns for a stream of L bytes (R136). -/
def blockCount (L : Nat) : Nat := if L % 64 ≤ 55 then L / 64 + 1 else L / 64 + 2

/-- Block number q of a stream (R137). -/
def blockOf (s : List Byte) (q : Nat) : Block := words16 (((padded s).drop (64 * q)).take 64)

/-- The initial state IV (R151). -/
def initialDigest : Quad := ⟨0x67452301#32, 0xefcdab89#32, 0x98badcfe#32, 0x10325476#32⟩

/-- The digest state of a stream (R170): a fold of AddBack and Compress over its blocks. -/
def digestStateOf (s : List Byte) : Quad :=
  (List.range (blockCount s.length)).foldl
    (fun S q => addBack S (compress S (blockOf s q))) initialDigest

/-- The 16 digest bytes of a stream (R166, R170). -/
def digestOf (s : List Byte) : List Byte :=
  le32bytes (digestStateOf s).a ++ le32bytes (digestStateOf s).b ++
    le32bytes (digestStateOf s).c ++ le32bytes (digestStateOf s).d

/-- Four steps of the transform as updates in place, roles `[abcd] [dabc] [cdab] [bcda]` (R160, R161): group m does the
steps 4m .. 4m+3, and every variable is back in its role after it. -/
def inPlaceGroup (m : Nat) (q : Quad) (x : Block) : Quad :=
  let update (j : Nat) (a b c d : Word) : Word :=
    b + rotl32 (a + roundFn j b c d + blockWord x (wordIndex j) + sineConst (j + 1)) (shiftAmount j)
  let a := update (4 * m) q.a q.b q.c q.d
  let d := update (4 * m + 1) q.d a q.b q.c
  let c := update (4 * m + 2) q.c d a q.b
  let b := update (4 * m + 3) q.b c d a
  ⟨a, b, c, d⟩

/-! ## The command sequence of HASH (R88, R170), at the level of the CORE -/

/-- Go on with an outcome's next state. -/
def andThen (o : Host.Outcome State Fault Refusal) (f : State → Host.Outcome State Fault Refusal) :
    Host.Outcome State Fault Refusal :=
  match o with
  | .next s => f s
  | .fault r => .fault r
  | .refused r => .refused r

/-- HASH's loop from its label Lh, at most `fuel` times round: NEXT_BLOCK, CHECK, and PROCESS_BLOCK while a block was
produced; FINALIZE once the Producer reports exhaustion (R88). Out of fuel it stands where it is. -/
def hashLoop : Nat → State → Host.Outcome State Fault Refusal
  | 0, s => .next s
  | fuel + 1, s =>
    andThen (doCommand .nextBlock s) fun s1 =>
      if s1.core.fault then .next s1
      else if s1.core.exhausted then doCommand .finalize s1
      else andThen (doCommand .processBlock s1) (hashLoop fuel)

/-- HASH: DO INIT, then its loop (R88). -/
def hashCommands (fuel : Nat) (s : State) : Host.Outcome State Fault Refusal :=
  andThen (doCommand .init s) (hashLoop fuel)

/-! ## The order of commands (R237) -/

/-- What one completed command was, in R237's notation. -/
inductive Completed where
  | init
  | block
  | exhausted
  | processed
  | finalized
  deriving DecidableEq, Repr

/-- What the completion of a command was, read off the machine after it (R237: a NEXT_BLOCK completion returned a
block with EXHAUSTED = 0 and reported exhaustion with EXHAUSTED = 1). -/
def completedAs (i : Instr) (t : State) : Completed :=
  match i with
  | .init => .init
  | .nextBlock => if t.core.exhausted then .exhausted else .block
  | .processBlock => .processed
  | .finalize => .finalized

/-- The completed commands of a sequence of DO statements, none as soon as one leaves FAULT = 1. -/
def completedCommands : List Instr → State → Option (List Completed)
  | [], _ => some []
  | i :: rest, s =>
    match doCommand i s with
    | .next t => if t.core.fault then none else (completedCommands rest t).map (completedAs i t :: ·)
    | .fault _ => none
    | .refused _ => none

/-- Where a computation stands in the order of R237. -/
inductive Phase where
  /-- The next block may be asked for. -/
  | asking
  /-- A block waits for PROCESS_BLOCK. -/
  | holding
  /-- Exhaustion was reported. -/
  | spent
  /-- FINALIZE has completed. -/
  | final
  deriving DecidableEq, Repr

/-- One completed command in the order of R237 (the part after its optional INIT). -/
def Phase.next : Phase → Completed → Option Phase
  | .asking, .block => some .holding
  | .asking, .exhausted => some .spent
  | .asking, .finalized => some .final
  | .holding, .processed => some .asking
  | .spent, .exhausted => some .spent
  | .spent, .finalized => some .final
  | .final, .finalized => some .final
  | .final, .exhausted => some .final
  | _, _ => none

/-- The completed commands, from a phase, begin a sequence of R237. -/
def followsOrder : Phase → List Completed → Bool
  | _, [] => true
  | p, e :: rest =>
    match p.next e with
    | some q => followsOrder q rest
    | none => false

end Sys2Proof.Machine
end

