-- ==== Sys2Proof/WellFormed.lean ====
section
/-! DEFINITION. Well-formed syntax: the commands (no operands to check, 30_encoding.md R81), command words, and host
programs (R86). -/

namespace Sys2Proof

/-- A command is well formed whatever it is: it has no operand that could fail a check (R81). -/
def Instr.wf : Instr → Bool
  | .init => true
  | .nextBlock => true
  | .processBlock => true
  | .finalize => true

/-- A command word is well formed if RSV is 0 and OP is one of the four (R80, R82). -/
def wordWf (v : Word) : Bool := rsvField v == 0 && decide (1 ≤ (opField v).toNat) && decide ((opField v).toNat ≤ 4)

namespace Machine

/-- The label a host statement branches to, if it is a branch (R86). -/
def HostInstr.target : HostInstr → Option Nat
  | .bt _ _ l => some l
  | .bf _ _ l => some l
  | .j l => some l
  | .wr _ _ => none
  | .rd _ _ => none
  | .label _ => none
  | .src _ => none
  | .access _ => none

/-- A host program is well formed if every label it branches to is defined exactly once (R86). -/
def programWf (p : List HostInstr) : Bool :=
  p.all fun i =>
    match i.target with
    | some l => (labelTarget p l).isSome
    | none => true

end Machine

end Sys2Proof
end

