-- ==== Sys2Proof/Certificates/Slice0/Obligations.lean ====
section
/-! DEFINITION. The statements for the provers. Each docstring names the rules of spec/ it formalises; a clause that
rests on a choice of the model names its log entry. -/

open Sys2Proof Sys2Proof.Machine

/-! ## Encoding -/

/-- R82, R85: the decoder names a command on exactly that command's word, for all 2^32 words; with i quantified this
is also the round trip, decode of encode i is i. -/
def Obligations.DecodeNamesACommandExactlyOnItsWord : Prop :=
  ∀ (v : Word) (i : Instr), decode v = .command i ↔ v = encode i

/-- R83: a word is ILLEGAL exactly when OP is 0x00, OP is in 0x05..0xFF, or RSV is not 0. -/
def Obligations.EveryOtherWordIsIllegal : Prop :=
  ∀ v : Word, (opField v = 0 ∨ 5 ≤ (opField v).toNat ∨ rsvField v ≠ 0) ↔ ∃ why, decode v = .illegal why

/-- R82 and V-F5 to V-F7: the four words of the opcode map, and three words that are none of them. -/
def Obligations.TheSpecsWordsDecode : Prop :=
  decodeTableWord 32 0x00000001 = some .init ∧ decodeTableWord 32 0x00000002 = some .nextBlock ∧
  decodeTableWord 32 0x00000003 = some .processBlock ∧ decodeTableWord 32 0x00000004 = some .finalize ∧
  decodeTableWord 32 0x00000000 = none ∧ decodeTableWord 32 0x00000005 = none ∧
  decodeTableWord 32 0x00000102 = none

/-! ## Fetch and completion -/

/-- R104: with BUSY = 1, the Core's step is the pending command's completion, where the schedule prescribes the Core, and
where it is empty. That the Core is the one to move under an empty schedule is the model's choice
(notes/assumptions/4.md): R7 lets any enabled agent move. -/
def Obligations.StepCompletesThePendingCommand : Prop :=
  ∀ (s : State) (i : Instr), s.core.busy = true → s.core.pending = some i →
    (s.sched = [] → step s = exec i s) ∧
    (∀ rest, s.sched = .core :: rest → step s = exec i { s with sched := rest })

/-- The place of the fetch (notes/assumptions/5.md): the step after withFetchWord runs the command its word decodes
to, with that command pending. -/
def Obligations.StepRunsTheFetchedWord : Prop :=
  ∀ (s : State) (w : Nat) (i : Instr), w < 2 ^ 32 → decode (BitVec.ofNat 32 w) = .command i →
    step (s.withFetchWord 32 w) = exec i { s with core := { s.core with busy := true, pending := some i } }

/-- R87, R100, R104: a command statement of the host and then the Core's turn, as the model's schedule prescribes them
(notes/assumptions/4.md), are DO of that command. -/
def Obligations.HostCommandThenCoreTurnIsDoCommand : Prop :=
  ∀ (s : State) (i : Instr) (rest : List Turn), s.sched = .host :: .core :: rest →
    s.host.program[s.host.pc]? = some (.command i) →
    Host.Core.run Sys2Proof.core 2 s =
      doCommand i { s with sched := rest, host := { s.host with pc := s.host.pc + 1 } }

/-! ## Issue (R100 to R103, R203 to R208) -/

/-- R100, R101: with BUSY = 0, a command word is issued, and only PENDING and BUSY change, exactly when FAULT = 0 (or the
command is INIT) and its precondition holds; the conditions are written out. -/
def Obligations.CommandIsIssuedExactlyWhenAccepted : Prop :=
  ∀ (c : CoreState) (i : Instr), c.busy = false →
    ((cmdWrite (encode i) c).busy = true ↔
      (c.fault = false ∨ i = .init) ∧
      (i = .nextBlock → c.blkValid = false) ∧
      (i = .processBlock → c.final = false ∧ c.blkValid = true) ∧
      (i = .finalize → c.pstate = .done ∧ c.blkValid = false)) ∧
    ((cmdWrite (encode i) c).busy = true → cmdWrite (encode i) c = { c with busy := true, pending := some i })

/-- R208: any CMD write while BUSY = 1 and FAULT = 0 raises CMD_WHILE_BUSY, whatever the word, and changes nothing
else; the Core's turn then completes the pending command. -/
def Obligations.WriteWhileBusyRaisesCmdWhileBusy : Prop :=
  ∀ (s : State) (v : Word), s.core.busy = true → s.core.fault = false →
    ∃ t, busWrite 0x00 v s = some t ∧ t = { s with core := { s.core with fault := true, fcode := 0x6#4 } } ∧
      ∀ i, s.core.pending = some i → coreTurn t = exec i t

/-- R102: a discarded CMD write changes no state at all, in both of its cases. -/
def Obligations.DiscardedWriteChangesNothing : Prop :=
  ∀ (s : State) (v : Word), s.core.fault = true → (s.core.busy = true ∨ v ≠ 0x00000001#32) →
    busWrite 0x00 v s = some s

/-- R203: an illegal word, with BUSY = 0 and FAULT = 0, raises ILLEGAL_CMD and issues nothing. -/
def Obligations.IllegalWordRaisesIllegalCmd : Prop :=
  ∀ (s : State) (v : Word), s.core.busy = false → s.core.fault = false → (∀ i, v ≠ encode i) →
    busWrite 0x00 v s = some { s with core := { s.core with fault := true, fcode := 0x1#4 } }

/-- R204 to R207: each out-of-order command, with BUSY = 0 and FAULT = 0, raises its own fault and changes nothing
else; PROCESS_AFTER_FINALIZE comes before PROCESS_WITHOUT_BLOCK (R211). -/
def Obligations.OutOfOrderCommandsRaiseTheirFaults : Prop :=
  ∀ (s : State), s.core.busy = false → s.core.fault = false →
    (s.core.blkValid = true →
      busWrite 0x00 0x00000002#32 s = some { s with core := { s.core with fault := true, fcode := 0x2#4 } }) ∧
    (s.core.final = false → s.core.blkValid = false →
      busWrite 0x00 0x00000003#32 s = some { s with core := { s.core with fault := true, fcode := 0x3#4 } }) ∧
    (s.core.final = true →
      busWrite 0x00 0x00000003#32 s = some { s with core := { s.core with fault := true, fcode := 0x4#4 } }) ∧
    (s.core.pstate ≠ .done ∨ s.core.blkValid = true →
      busWrite 0x00 0x00000004#32 s = some { s with core := { s.core with fault := true, fcode := 0x5#4 } })

/-! ## The register window (R32 to R37, R51 to R57, R63) -/

/-- R53, R55: a 32-bit read is a BusError exactly at a misaligned, reserved or outside offset, and a 32-bit write
exactly at any offset but CMD's. -/
def Obligations.BusErrorExactlyOffTheRegisterMap : Prop :=
  (∀ (off : Nat) (s : State),
    busRead off s = none ↔ (off % 4 ≠ 0 ∨ (0x20 ≤ off ∧ off < 0x40) ∨ 0x80 ≤ off)) ∧
  (∀ (off : Nat) (v : Word) (s : State), busWrite off v s = none ↔ off ≠ 0x00)

/-- R51, R53, R210: an access of another width than 32 bits, or outside the window at the instance's BASE, is a BusError,
which is a fault outcome (notes/assumptions/1.md); one inside reaches its offset; and every BASE is a multiple of 0x80.
That BASE is found by the placement is the form of notes/assumptions/14.md. -/
def Obligations.AccessByAddressReachesItsOffset : Prop :=
  (∀ place : Nat, Config.base place % 0x80 = 0) ∧
  (∀ (a : BusAccess) (s : State), a.width ≠ .word → hostAccess a s = .fault .busError) ∧
  (∀ (addr : Nat) (op : BusOp) (s : State), addr < Config.base s.place ∨ Config.base s.place + 0x80 ≤ addr →
    hostAccess ⟨addr, .word, op⟩ s = .fault .busError) ∧
  (∀ (off : Nat) (dst : HostVar) (s : State), off < 0x80 →
    hostAccess ⟨Config.base s.place + off, .word, .read dst⟩ s = hostRead dst off s) ∧
  (∀ (off : Nat) (v : Word) (s : State), off < 0x80 →
    hostAccess ⟨Config.base s.place + off, .word, .write v⟩ s = hostWrite off v s)

/-- R32, R35 to R37, R52: what each register reads while BUSY = 0, with the machine unchanged. -/
def Obligations.IdleReadsGiveEachRegister : Prop :=
  ∀ (s : State), s.core.busy = false →
    busRead 0x08 s = some (s.core.len.extractLsb' 0 32, s) ∧
    busRead 0x0C s = some (s.core.len.extractLsb' 32 32, s) ∧
    busRead 0x10 s = some (s.core.hA, s) ∧ busRead 0x14 s = some (s.core.hB, s) ∧
    busRead 0x18 s = some (s.core.hC, s) ∧ busRead 0x1C s = some (s.core.hD, s) ∧
    (∀ i : Fin 16, busRead (0x40 + 4 * i.val) s = some (s.core.blk[i], s))

/-- R33, R34, R57: CMD reads 0 and STATUS is exact in every state, BUSY or not. -/
def Obligations.CmdAndStatusReadExactlyAlways : Prop :=
  ∀ (s : State), busRead 0x00 s = some (0x00000000#32, s) ∧ busRead 0x04 s = some (s.core.status, s)

/-- R34, R24: the place of each STATUS field, and the reserved bits, which read 0. -/
def Obligations.StatusFieldsStandInTheirBits : Prop :=
  ∀ (c : CoreState),
    c.status.getLsbD 0 = c.busy ∧ c.status.getLsbD 1 = c.blkValid ∧ c.status.getLsbD 2 = c.exhausted ∧
    (c.status.extractLsb' 3 2 = match c.pstate with
      | .reading => 0b00#2
      | .emittingPadding => 0b01#2
      | .done => 0b10#2) ∧
    c.status.getLsbD 5 = c.final ∧ c.status.getLsbD 6 = c.fault ∧ c.status.getLsbD 7 = false ∧
    c.status.extractLsb' 8 4 = c.fcode ∧ c.status.extractLsb' 12 20 = 0#20

/-- R57: while BUSY = 1 a read of any register but CMD and STATUS returns the next free value, whatever that is, and
counts it as drawn (the count, and that the value is found by the placement and the count, are the model's own,
notes/assumptions/2.md). -/
def Obligations.BusyReadsDrawAFreeValue : Prop :=
  ∀ (s : State) (off : Nat), s.core.busy = true → off % 4 = 0 → (8 ≤ off ∧ off < 0x20 ∨ 0x40 ≤ off ∧ off < 0x80) →
    busRead off s = some (Config.busyRead s.place s.draws, { s with draws := s.draws + 1 })

/-- R54: a read changes neither the CORE nor the Host nor the Byte Source, and a second read of an exact register gives
the same value. -/
def Obligations.ReadsHaveNoSideEffectAndRepeat : Prop :=
  ∀ (off : Nat) (s t : State) (w : Word), busRead off s = some (w, t) →
    t.core = s.core ∧ t.host = s.host ∧ t.source = s.source ∧ t.sched = s.sched ∧
    (s.core.busy = false ∨ off = 0x00 ∨ off = 0x04 → busRead off t = some (w, t))

/-- R56: LEN read as LEN_LO and then LEN_HI, both while BUSY = 0, is the 64-bit LEN. -/
def Obligations.IdleLengthPairIsConsistent : Prop :=
  ∀ (s t u : State) (lo hi : Word), s.core.busy = false →
    busRead 0x08 s = some (lo, t) → busRead 0x0C t = some (hi, u) → (hi ++ lo : BitVec 64) = s.core.len

/-- R63, R166: the digest is 16 bytes, and byte m is bits [8(m mod 4)+7 : 8(m mod 4)] of register H_{A,B,C,D}[m div 4]. -/
def Obligations.DigestBytesAreTheLittleEndianWords : Prop :=
  ∀ (c : CoreState), c.digest.length = 16 ∧
    ∀ m : Fin 16, c.digest[m.val]? =
      some (([c.hA, c.hB, c.hC, c.hD].getD (m.val / 4) 0#32).extractLsb' (8 * (m.val % 4)) 8)

/-! ## Primitives (R11, R12, R127, R131, R152 to R163) -/

/-- R11: rotl32 is the circular left shift, bit by bit, for every amount from 1 to 31. -/
def Obligations.RotateLeftIsCircular : Prop :=
  ∀ (x : Word) (s i : Nat), 1 ≤ s → s ≤ 31 → i < 32 → (rotl32 x s).getLsbD i = x.getLsbD ((i + (32 - s)) % 32)

/-- R12, R127: word i of a 64-byte buffer is its 4-byte group i, the first byte the least significant. That group i
becomes word i is the spec's own addition: "That ordering is [from general knowledge, not in source]" (R127, G3). -/
def Obligations.WordsAreTheGroupsInBufferOrder : Prop :=
  ∀ (buf : List Byte), buf.length = 64 → ∀ i : Fin 16,
    (words16 buf)[i] =
      (buf.getD (4 * i.val + 3) 0 ++ buf.getD (4 * i.val + 2) 0 ++ buf.getD (4 * i.val + 1) 0 ++
        buf.getD (4 * i.val) 0 : BitVec 32)

/-- R131, R12: the length field is (8 * LEN) mod 2^64, that is {LEN[60:0], 0b000}, and byte i of le64bytes is
v[8i+7:8i]. -/
def Obligations.LengthFieldWrapsModulo64Bits : Prop :=
  (∀ len : BitVec 64, (bitLength len).toNat = 8 * len.toNat % 2 ^ 64 ∧
    bitLength len = (len.extractLsb' 0 61 ++ 0#3 : BitVec 64)) ∧
  (∀ (v : BitVec 64) (i : Fin 8), (le64bytes v)[i.val]? = some (v.extractLsb' (8 * i.val) 8))

/-- R152 to R155: the round functions, bit by bit, and the corner cases the rules name. -/
def Obligations.RoundFunctionsSelectBitByBit : Prop :=
  (∀ (x y z : Word) (i : Nat), i < 32 →
    (roundF x y z).getLsbD i = (if x.getLsbD i then y.getLsbD i else z.getLsbD i) ∧
    (roundG x y z).getLsbD i = (if z.getLsbD i then x.getLsbD i else y.getLsbD i) ∧
    (roundH x y z).getLsbD i = (x.getLsbD i != (y.getLsbD i != z.getLsbD i)) ∧
    (roundI x y z).getLsbD i = (y.getLsbD i != (x.getLsbD i || !z.getLsbD i))) ∧
  (∀ y z : Word, roundF 0xFFFFFFFF#32 y z = y ∧ roundF 0x00000000#32 y z = z) ∧
  (∀ x y : Word, roundG x y 0xFFFFFFFF#32 = x ∧ roundG x y 0x00000000#32 = y) ∧
  (∀ x z : Word, roundH x x z = z) ∧
  (∀ x y : Word, roundI x y 0x00000000#32 = ~~~y) ∧ roundI 0 0 0 = 0xFFFFFFFF#32

/-- R156 to R159, R169: the function, the word index, the rotate amount and the constant of every step, written out as
R169's table lists them. The constants are the spec's own addition: "The values below are [from general knowledge, not
in source]" (R159, G1). -/
def Obligations.ScheduleIsTheTable : Prop :=
  (∀ j : Nat, (j < 16 → roundFn j = roundF) ∧ (16 ≤ j → j < 32 → roundFn j = roundG) ∧
    (32 ≤ j → j < 48 → roundFn j = roundH) ∧ (48 ≤ j → j < 64 → roundFn j = roundI)) ∧
  (List.range 64).map wordIndex =
    [0, 1, 2, 3, 4, 5, 6, 7, 8, 9, 10, 11, 12, 13, 14, 15] ++
    [1, 6, 11, 0, 5, 10, 15, 4, 9, 14, 3, 8, 13, 2, 7, 12] ++
    [5, 8, 11, 14, 1, 4, 7, 10, 13, 0, 3, 6, 9, 12, 15, 2] ++
    [0, 7, 14, 5, 12, 3, 10, 1, 8, 15, 6, 13, 4, 11, 2, 9] ∧
  (List.range 64).map shiftAmount =
    [7, 12, 17, 22, 7, 12, 17, 22, 7, 12, 17, 22, 7, 12, 17, 22] ++
    [5, 9, 14, 20, 5, 9, 14, 20, 5, 9, 14, 20, 5, 9, 14, 20] ++
    [4, 11, 16, 23, 4, 11, 16, 23, 4, 11, 16, 23, 4, 11, 16, 23] ++
    [6, 10, 15, 21, 6, 10, 15, 21, 6, 10, 15, 21, 6, 10, 15, 21] ∧
  (List.range 64).map (fun j => sineConst (j + 1)) =
    [0xd76aa478#32, 0xe8c7b756#32, 0x242070db#32, 0xc1bdceee#32, 0xf57c0faf#32, 0x4787c62a#32, 0xa8304613#32, 0xfd469501#32,
     0x698098d8#32, 0x8b44f7af#32, 0xffff5bb1#32, 0x895cd7be#32, 0x6b901122#32, 0xfd987193#32, 0xa679438e#32, 0x49b40821#32] ++
    [0xf61e2562#32, 0xc040b340#32, 0x265e5a51#32, 0xe9b6c7aa#32, 0xd62f105d#32, 0x02441453#32, 0xd8a1e681#32, 0xe7d3fbc8#32,
     0x21e1cde6#32, 0xc33707d6#32, 0xf4d50d87#32, 0x455a14ed#32, 0xa9e3e905#32, 0xfcefa3f8#32, 0x676f02d9#32, 0x8d2a4c8a#32] ++
    [0xfffa3942#32, 0x8771f681#32, 0x6d9d6122#32, 0xfde5380c#32, 0xa4beea44#32, 0x4bdecfa9#32, 0xf6bb4b60#32, 0xbebfbc70#32,
     0x289b7ec6#32, 0xeaa127fa#32, 0xd4ef3085#32, 0x04881d05#32, 0xd9d4d039#32, 0xe6db99e5#32, 0x1fa27cf8#32, 0xc4ac5665#32] ++
    [0xf4292244#32, 0x432aff97#32, 0xab9423a7#32, 0xfc93a039#32, 0x655b59c3#32, 0x8f0ccc92#32, 0xffeff47d#32, 0x85845dd1#32,
     0x6fa87e4f#32, 0xfe2ce6e0#32, 0xa3014314#32, 0x4e0811a1#32, 0xf7537e82#32, 0xbd3af235#32, 0x2ad7d2bb#32, 0xeb86d391#32]

/-- R160 to R162: the transform's 64 ladder steps are the sixteen groups of four updates in place, for every state and
block: after each group the variables are back in their roles. The permutation is the spec's own addition: "It is [from
general knowledge, not in source]" (R161, G2). -/
def Obligations.CompressionIsTheInPlaceLadder : Prop :=
  ∀ (q : Quad) (x : Block), compress q x = (List.range 16).foldl (fun w m => inPlaceGroup m w x) q

/-- R166, R170, S1 to S5: the digests of the source's known answers. -/
def Obligations.KnownAnswersHold : Prop :=
  digestOf [] =
    [0xd4, 0x1d, 0x8c, 0xd9, 0x8f, 0x00, 0xb2, 0x04, 0xe9, 0x80, 0x09, 0x98, 0xec, 0xf8, 0x42, 0x7e] ∧
  digestOf [0x61] =
    [0x0c, 0xc1, 0x75, 0xb9, 0xc0, 0xf1, 0xb6, 0xa8, 0x31, 0xc3, 0x99, 0xe2, 0x69, 0x77, 0x26, 0x61] ∧
  digestOf [0x61, 0x62, 0x63] =
    [0x90, 0x01, 0x50, 0x98, 0x3c, 0xd2, 0x4f, 0xb0, 0xd6, 0x96, 0x3f, 0x7d, 0x28, 0xe1, 0x7f, 0x72] ∧
  digestOf [0x6d, 0x65, 0x73, 0x73, 0x61, 0x67, 0x65, 0x20, 0x64, 0x69, 0x67, 0x65, 0x73, 0x74] =
    [0xf9, 0x6b, 0x69, 0x7d, 0x7c, 0xb7, 0x93, 0x8d, 0x52, 0x5a, 0x2f, 0x31, 0xaa, 0xf1, 0x61, 0xd0] ∧
  digestOf ((List.range 26).map fun i => BitVec.ofNat 8 (0x61 + i)) =
    [0xc3, 0xfc, 0xd3, 0xd7, 0x61, 0x92, 0xe4, 0x00, 0x7d, 0xfb, 0x49, 0x6c, 0xca, 0x67, 0xe1, 0x3b]

/-! ## The completions (R104, R105, R121 to R130, R164, R165) -/

/-- R105: INIT's completion, from every state: every CORE element fresh, FAULT cleared, the Byte Source and everything
else unchanged. That it also clears a fault latched while the INIT was pending is the model's choice between R103 and
R105 (notes/assumptions/17.md). -/
def Obligations.InitStartsAFreshComputation : Prop :=
  ∀ (s : State), exec .init s = .next { s with core :=
    { hA := 0x67452301#32, hB := 0xefcdab89#32, hC := 0x98badcfe#32, hD := 0x10325476#32, pstate := .reading,
      padbuf := Vector.replicate 16 0#32, len := 0, blk := Vector.replicate 16 0#32, blkValid := false,
      exhausted := false, final := false, fault := false, fcode := 0, busy := false, pending := none } }

/-- R122, R209: NEXT_BLOCK in Reading with the answer Error latches IO_READ_FAILED (or keeps an earlier code, R201),
ends the completion, and changes nothing else; no byte of the stream is consumed. -/
def Obligations.NextBlockReadFailure : Prop :=
  ∀ (s : State) (src : ByteSource), s.core.pstate = .reading → s.source.fill = (.error, src) →
    src.stream = s.source.stream ∧
    (s.core.fault = false → exec .nextBlock s = .next { s with source := src, core :=
      { s.core with fault := true, fcode := 0x7#4, busy := false, pending := none } }) ∧
    (s.core.fault = true → exec .nextBlock s = .next { s with source := src, core :=
      { s.core with busy := false, pending := none } })

/-- R122 to R124: NEXT_BLOCK in Reading with 64 bytes returns them as they are and stays in Reading. -/
def Obligations.NextBlockFullBlock : Prop :=
  ∀ (s : State) (bytes : List Byte) (h : bytes.length ≤ 64) (src : ByteSource), s.core.pstate = .reading →
    s.source.fill = (.data bytes h, src) → bytes.length = 64 →
    exec .nextBlock s = .next { s with source := src, core :=
      { s.core with len := s.core.len + 64#64, blk := words16 bytes, blkValid := true, exhausted := false,
                    busy := false, pending := none } }

/-- R122, R123, R125, R126: NEXT_BLOCK in Reading with at most 55 bytes returns them with the whole padding, whose
length field counts these bytes, and goes to Done. -/
def Obligations.NextBlockPaddingFits : Prop :=
  ∀ (s : State) (bytes : List Byte) (h : bytes.length ≤ 64) (src : ByteSource), s.core.pstate = .reading →
    s.source.fill = (.data bytes h, src) → bytes.length ≤ 55 →
    exec .nextBlock s = .next { s with source := src, core :=
      { s.core with
        len := s.core.len + BitVec.ofNat 64 bytes.length,
        blk := words16 (bytes ++ [0x80#8] ++ List.replicate (55 - bytes.length) 0x00#8 ++
          le64bytes (8#64 * (s.core.len + BitVec.ofNat 64 bytes.length))),
        blkValid := true, exhausted := false, pstate := .done, busy := false, pending := none } }

/-- R122, R123, R125, R128: NEXT_BLOCK in Reading with 56 to 63 bytes returns them with the marker and zeros, and
buffers the block whose last two words are the bit length, in EmittingPadding. -/
def Obligations.NextBlockPaddingSpills : Prop :=
  ∀ (s : State) (bytes : List Byte) (h : bytes.length ≤ 64) (src : ByteSource), s.core.pstate = .reading →
    s.source.fill = (.data bytes h, src) → 56 ≤ bytes.length → bytes.length ≤ 63 →
    ∃ pad : Block, exec .nextBlock s = .next { s with source := src, core :=
      { s.core with
        len := s.core.len + BitVec.ofNat 64 bytes.length,
        blk := words16 (bytes ++ [0x80#8] ++ List.replicate (63 - bytes.length) 0x00#8),
        padbuf := pad,
        blkValid := true, exhausted := false, pstate := .emittingPadding, busy := false, pending := none } } ∧
      (∀ k : Fin 16, k.val < 14 → pad[k] = 0#32) ∧
      pad[14] = (8#64 * (s.core.len + BitVec.ofNat 64 bytes.length)).extractLsb' 0 32 ∧
      pad[15] = (8#64 * (s.core.len + BitVec.ofNat 64 bytes.length)).extractLsb' 32 32

/-- R129: NEXT_BLOCK in EmittingPadding returns PADBUF and goes to Done, without asking the Byte Source. -/
def Obligations.NextBlockEmitsTheBufferedBlock : Prop :=
  ∀ (s : State), s.core.pstate = .emittingPadding →
    exec .nextBlock s = .next { s with core :=
      { s.core with blk := s.core.padbuf, blkValid := true, exhausted := false, pstate := .done,
                    busy := false, pending := none } }

/-- R130: NEXT_BLOCK in Done reports exhaustion, and nothing else changes, however often. -/
def Obligations.NextBlockReportsExhaustion : Prop :=
  ∀ (s : State), s.core.pstate = .done →
    exec .nextBlock s = .next { s with core := { s.core with exhausted := true, busy := false, pending := none } }

/-- R162 to R164: PROCESS_BLOCK adds the transform of (H_A..H_D) and BLK back into H_A..H_D, and clears BLK_VALID;
nothing else changes. -/
def Obligations.ProcessBlockAddsTheCompressionBack : Prop :=
  ∀ (s : State) (w : Quad), compress ⟨s.core.hA, s.core.hB, s.core.hC, s.core.hD⟩ s.core.blk = w →
    exec .processBlock s = .next { s with core :=
      { s.core with hA := s.core.hA + w.a, hB := s.core.hB + w.b, hC := s.core.hC + w.c, hD := s.core.hD + w.d,
                    blkValid := false, busy := false, pending := none } }

/-- R165: FINALIZE sets FINAL; the digest state and everything else are unchanged. -/
def Obligations.FinalizeOnlySetsFinal : Prop :=
  ∀ (s : State), exec .finalize s = .next { s with core :=
    { s.core with final := true, busy := false, pending := none } }

/-- R165: an accepted FINALIZE changes only FINAL, and a second one is accepted and changes nothing. -/
def Obligations.FinalizeIsIdempotent : Prop :=
  ∀ (s : State), s.core.busy = false → s.core.fault = false → s.core.pstate = .done → s.core.blkValid = false →
    ∃ t, doCommand .finalize s = .next t ∧ t.core = { s.core with final := true, pending := none } ∧
      doCommand .finalize t = .next t

/-! ## Reset (R40, R230, R231) -/

/-- R40: the CORE right after hardware reset. -/
def Obligations.ResetValues : Prop :=
  State.reset.core =
    { hA := 0x67452301#32, hB := 0xefcdab89#32, hC := 0x98badcfe#32, hD := 0x10325476#32, pstate := .reading,
      padbuf := Vector.replicate 16 0#32, len := 0, blk := Vector.replicate 16 0#32, blkValid := false,
      exhausted := false, final := false, fault := false, fcode := 0, busy := false, pending := none } ∧
  State.reset.core.status = 0x00000000#32

/-- R230, R231: a reset from any state, BUSY or not, gives the CORE of R40, which is the CORE an INIT completion gives.
The model's own are: the reset is taken from the schedule, which loses that turn (notes/assumptions/4.md); the Host is
not reset (notes/assumptions/3.md); the Byte Source stays where it was unless a fill was outstanding
(notes/assumptions/6.md); and INIT's completion also clears a fault latched while it was pending, between R103 and R105
(notes/assumptions/17.md). -/
def Obligations.ResetFromAnyState : Prop :=
  ∀ (s : State) (rest : List Turn), s.sched = .reset :: rest →
    ∃ t u, step s = .next t ∧ exec .init s = .next u ∧ t.core = CoreState.reset ∧ t.core = u.core ∧
      t.host = s.host ∧ t.sched = rest ∧
      (¬(s.core.busy = true ∧ s.core.pending = some .nextBlock ∧ s.core.pstate = .reading) → t.source = s.source)

/-! ## Whole-machine rules, of every step from every state. Whose turn a step takes, `(nextTurn s).1`, stands in the
model's schedule (notes/assumptions/4.md). -/

/-- R22, R163, R168: H_A..H_D change only in a PROCESS_BLOCK completion, an INIT completion or a reset, and there to the
value the rules give. -/
def Obligations.DigestStateChangesOnlyByProcessInitOrReset : Prop :=
  ∀ (s t : State), step s = .next t → t.core.digestState ≠ s.core.digestState →
    ((nextTurn s).1 = .core ∧ s.core.busy = true ∧ s.core.pending = some .processBlock ∧
      t.core.digestState = addBack s.core.digestState (compress s.core.digestState s.core.blk)) ∨
    (t.core.digestState = initialDigest ∧
      ((nextTurn s).1 = .reset ∨
       ((nextTurn s).1 = .core ∧ s.core.busy = true ∧ s.core.pending = some .init)))

/-- R26, R123: LEN changes only by the count of bytes a NEXT_BLOCK completion in Reading receives, or to 0 by INIT or
reset. -/
def Obligations.RunningLengthCountsOnlyBytesRead : Prop :=
  ∀ (s t : State), step s = .next t → t.core.len ≠ s.core.len →
    ((nextTurn s).1 = .core ∧ s.core.busy = true ∧ s.core.pending = some .nextBlock ∧ s.core.pstate = .reading ∧
      ∃ bytes h, s.source.fill.1 = .data bytes h ∧ t.core.len = s.core.len + BitVec.ofNat 64 bytes.length) ∨
    (t.core.len = 0 ∧
      ((nextTurn s).1 = .reset ∨
       ((nextTurn s).1 = .core ∧ s.core.busy = true ∧ s.core.pending = some .init)))

/-- R24, R132: the Producer moves only forward, in NEXT_BLOCK completions; only INIT or reset return it to Reading. -/
def Obligations.ProducerOnlyMovesForward : Prop :=
  ∀ (s t : State), step s = .next t → t.core.pstate ≠ s.core.pstate →
    (t.core.pstate = .reading ∧
      ((nextTurn s).1 = .reset ∨
       ((nextTurn s).1 = .core ∧ s.core.busy = true ∧ s.core.pending = some .init))) ∨
    ((nextTurn s).1 = .core ∧ s.core.busy = true ∧ s.core.pending = some .nextBlock ∧
      ((s.core.pstate = .reading ∧ t.core.pstate ≠ .reading) ∨
       (s.core.pstate = .emittingPadding ∧ t.core.pstate = .done)))

/-- R60, R230: the Byte Source moves only by the one fill of a NEXT_BLOCK completion in Reading, where the host's
platform places a stream (SRC, which replaces the stream when the host comes to it and leaves the prepared answers: the
model's reading, notes/assumptions/16.md), or by a reset during a fill (notes/assumptions/6.md). -/
def Obligations.SourceIsAskedOnlyByNextBlockInReading : Prop :=
  ∀ (s t : State), step s = .next t → t.source ≠ s.source →
    ((nextTurn s).1 = .core ∧ s.core.busy = true ∧ s.core.pending = some .nextBlock ∧ s.core.pstate = .reading ∧
      t.source = s.source.fill.2) ∨
    ((nextTurn s).1 = .host ∧ ∃ bytes, s.host.program[s.host.pc]? = some (.src bytes) ∧
      t.source = { s.source with stream := bytes }) ∨
    ((nextTurn s).1 = .reset ∧ s.core.busy = true ∧ s.core.pending = some .nextBlock ∧ s.core.pstate = .reading)

/-- R201, R214, R215: a latched fault keeps its code through every step but an INIT completion or a reset, which clear
it. For a fault latched while that INIT was pending this is the model's choice between R103 and R105
(notes/assumptions/17.md). -/
def Obligations.FaultIsStickyUntilInitOrReset : Prop :=
  ∀ (s t : State), s.core.fault = true → step s = .next t →
    (t.core.fault = true ∧ t.core.fcode = s.core.fcode) ∨
    (t.core.fault = false ∧ t.core.fcode = 0 ∧
      ((nextTurn s).1 = .reset ∨
       ((nextTurn s).1 = .core ∧ s.core.busy = true ∧ s.core.pending = some .init)))

/-- R212: fault entry is precise. A fault raised at a CMD write leaves everything but FAULT and FCODE as it was, with a
code in 1..6; one raised at a completion is IO_READ_FAILED and leaves everything but FAULT, FCODE, BUSY and PENDING. -/
def Obligations.FaultEntryIsPrecise : Prop :=
  ∀ (s t : State), s.core.fault = false → step s = .next t → t.core.fault = true →
    ((nextTurn s).1 = .host ∧ t.source = s.source ∧
      t.core = { s.core with fault := true, fcode := t.core.fcode } ∧
      1 ≤ t.core.fcode.toNat ∧ t.core.fcode.toNat ≤ 6) ∨
    ((nextTurn s).1 = .core ∧ s.core.busy = true ∧ s.core.pending = some .nextBlock ∧ s.core.pstate = .reading ∧
      s.source.fill.1 = .error ∧
      t.core = { s.core with fault := true, fcode := 0x7#4, busy := false, pending := none })

/-- R213: while FAULT = 1 and BUSY = 0 the computation is abandoned: whatever the Host does, the CORE stays as it is or
an INIT becomes pending, and the Byte Source is not asked; only the host's platform can place another stream (SRC, which
leaves the prepared answers: the model's reading, notes/assumptions/16.md). -/
def Obligations.FaultedComputationIsAbandoned : Prop :=
  ∀ (s t : State), s.core.fault = true → s.core.busy = false → step s = .next t → (nextTurn s).1 ≠ .reset →
    (t.core = s.core ∨ t.core = { s.core with busy := true, pending := some .init }) ∧
    (t.source = s.source ∨ ∃ bytes, s.host.program[s.host.pc]? = some (.src bytes) ∧
      t.source = { s.source with stream := bytes })

/-- R103, R104: through any number of host turns that do not stop the run, a pending command stays pending, nothing of
the CORE but FAULT and FCODE changes, and the Core's turn then completes it. Whose turn it is stands in the model's
schedule (notes/assumptions/4.md); what a pending INIT does to a fault latched meanwhile is notes/assumptions/17.md. -/
def Obligations.PendingCommandSurvivesHostTurns : Prop :=
  ∀ (n : Nat) (s t : State) (i : Instr) (rest : List Turn), s.core.busy = true → s.core.pending = some i →
    s.sched = List.replicate n .host ++ .core :: rest → Host.Core.run Sys2Proof.core n s = .next t →
    t.core = { s.core with fault := t.core.fault, fcode := t.core.fcode } ∧
    step t = exec i { t with sched := rest }

/-- R168, R204: in a state that meets the invariant, a returned block is kept, with BLK_VALID = 1, until PROCESS_BLOCK
compresses it, or INIT or reset abandons it. The model's own are: the invariant adds to R39 that a pending command's
precondition still holds (DEDUCED, notes/assumptions/13.md) and the host variables' form (notes/assumptions/7.md), and
INIT's completion also clears a fault latched while it was pending, between R103 and R105 (notes/assumptions/17.md). -/
def Obligations.ReturnedBlockIsKeptUntilCompressed : Prop :=
  ∀ (s t : State), s.Inv → s.core.blkValid = true → step s = .next t →
    (t.core.blk = s.core.blk ∧ t.core.blkValid = true) ∨
    ((nextTurn s).1 = .core ∧ s.core.pending = some .processBlock ∧ t.core.blk = s.core.blk ∧
      t.core.blkValid = false ∧
      t.core.digestState = addBack s.core.digestState (compress s.core.digestState s.core.blk)) ∨
    (t.core = CoreState.reset ∧
      ((nextTurn s).1 = .reset ∨ ((nextTurn s).1 = .core ∧ s.core.pending = some .init)))

/-- R167: the engine's lifecycle, in states that meet the invariant: FINAL is set only by FINALIZE, with every block
handed over, and while it stays set the digest state does not change; only INIT or reset clear it. The invariant adds to
R39 that a pending command's precondition still holds (DEDUCED, notes/assumptions/13.md) and the host variables' form
(notes/assumptions/7.md). -/
def Obligations.EngineLifecycle : Prop :=
  ∀ (s t : State), s.Inv → step s = .next t →
    (s.core.final = false → t.core.final = true →
      (nextTurn s).1 = .core ∧ s.core.pending = some .finalize ∧ s.core.pstate = .done ∧ s.core.blkValid = false ∧
      t.core.digestState = s.core.digestState) ∧
    (s.core.final = true → t.core.final = true → t.core.digestState = s.core.digestState) ∧
    (s.core.final = true → t.core.final = false →
      (nextTurn s).1 = .reset ∨ ((nextTurn s).1 = .core ∧ s.core.pending = some .init))

/-! ## The Host and the instances (R86, R220) -/

/-- R86: what each host statement does. WR and RD are the bus primitives, a BusError being a host fault outcome (R210,
notes/assumptions/1.md). The model's own are: a branch taken to a label that is not defined exactly once is refused by
name (notes/assumptions/7.md); SRC replaces the stream when the host comes to it and leaves the prepared answers
(notes/assumptions/16.md); and the statement for any bus access (notes/assumptions/15.md). -/
def Obligations.HostStatementsDoTheirWork : Prop :=
  ∀ (s : State),
    (∀ v, s.host.program[s.host.pc]? = some (.wr 0x00 v) →
      hostTurn s = .next { s with core := cmdWrite v s.core, host := { s.host with pc := s.host.pc + 1 } }) ∧
    (∀ off v, s.host.program[s.host.pc]? = some (.wr off v) → off ≠ 0x00 → hostTurn s = .fault .busError) ∧
    (∀ x off w t, s.host.program[s.host.pc]? = some (.rd x off) → busRead off s = some (w, t) →
      hostTurn s = .next { t with host := { s.host.set x w with pc := s.host.pc + 1 } }) ∧
    (∀ x off, s.host.program[s.host.pc]? = some (.rd x off) → busRead off s = none →
      hostTurn s = .fault .busError) ∧
    (∀ x b l n, s.host.program[s.host.pc]? = some (.bt x b l) → labelTarget s.host.program l = some n →
      hostTurn s = .next { s with
        host := { s.host with pc := (if (s.host.get x).getLsbD b.val then n else s.host.pc + 1) } }) ∧
    (∀ x b l n, s.host.program[s.host.pc]? = some (.bf x b l) → labelTarget s.host.program l = some n →
      hostTurn s = .next { s with
        host := { s.host with pc := (if (s.host.get x).getLsbD b.val then s.host.pc + 1 else n) } }) ∧
    (∀ l n, s.host.program[s.host.pc]? = some (.j l) → labelTarget s.host.program l = some n →
      hostTurn s = .next { s with host := { s.host with pc := n } }) ∧
    (∀ l, s.host.program[s.host.pc]? = some (.j l) → labelTarget s.host.program l = none →
      hostTurn s = .refused (.badLabel l)) ∧
    (∀ x b l, s.host.program[s.host.pc]? = some (.bt x b l) → labelTarget s.host.program l = none →
      hostTurn s = if (s.host.get x).getLsbD b.val then .refused (.badLabel l)
        else .next { s with host := { s.host with pc := s.host.pc + 1 } }) ∧
    (∀ x b l, s.host.program[s.host.pc]? = some (.bf x b l) → labelTarget s.host.program l = none →
      hostTurn s = if (s.host.get x).getLsbD b.val then .next { s with host := { s.host with pc := s.host.pc + 1 } }
        else .refused (.badLabel l)) ∧
    (∀ l, s.host.program[s.host.pc]? = some (.label l) →
      hostTurn s = .next { s with host := { s.host with pc := s.host.pc + 1 } }) ∧
    (∀ bytes, s.host.program[s.host.pc]? = some (.src bytes) →
      hostTurn s = .next { s with source := { s.source with stream := bytes },
                                  host := { s.host with pc := s.host.pc + 1 } }) ∧
    (∀ a, s.host.program[s.host.pc]? = some (.access a) → hostTurn s = hostAccess a s)

/-- The host's variables, whose canonical form is the model's (notes/assumptions/7.md): a variable written reads back,
every other keeps its value, and the form is kept. -/
def Obligations.HostVariablesHoldWhatWasWritten : Prop :=
  ∀ (h : HostAgent) (x : HostVar) (w : Word), varsWf h.vars = true →
    (h.set x w).get x = w ∧ (∀ y, y ≠ x → (h.set x w).get y = h.get y) ∧ varsWf (h.set x w).vars = true ∧
    (h.set x w).pc = h.pc ∧ (h.set x w).program = h.program

/-- R220: an instance that can step moves the system by its own step; that step changes no other instance, depends on
no other, and leaves every instance its placement, and so its window. That a system is a list of machines, each with a
Host of its own, is the model's choice (notes/assumptions/11.md), as is the placement (notes/assumptions/14.md). -/
def Obligations.InstancesShareNoState : Prop :=
  (∀ (k : Nat) (sys : List State) (s t : State), sys[k]? = some s → step s = .next t →
    ∃ sys', stepInstance k sys = .next sys' ∧ sys'[k]? = some t) ∧
  (∀ (k j : Nat) (sys sys' : List State), stepInstance k sys = .next sys' → j ≠ k → sys'[j]? = sys[j]?) ∧
  (∀ (k : Nat) (sys₁ sys₂ sys₁' : List State), sys₁[k]? = sys₂[k]? → stepInstance k sys₁ = .next sys₁' →
    ∃ sys₂', stepInstance k sys₂ = .next sys₂' ∧ sys₂'[k]? = sys₁'[k]?) ∧
  (∀ (k : Nat) (sys sys' : List State), stepInstance k sys = .next sys' →
    sys'.map State.place = sys.map State.place)

/-! ## Invariants (R39) -/

/-- R39, R40: the invariant holds at reset. It is the seven points of R39 and two of the model's own: a pending command's
precondition still holds (DEDUCED, notes/assumptions/13.md), and the host variables are in canonical form
(notes/assumptions/7.md; none is set at reset, notes/assumptions/3.md). -/
def Obligations.ResetMeetsTheInvariant : Prop := State.reset.Inv

/-- R39: from every state that meets the invariant, every step that answers a next state keeps it, whoever moves and
whatever the Byte Source answers. The invariant adds to R39 that a pending command's precondition still holds (DEDUCED,
notes/assumptions/13.md) and that the host variables are in canonical form (notes/assumptions/7.md). -/
def Obligations.EveryStepKeepsTheInvariant : Prop :=
  ∀ (s t : State), s.Inv → step s = .next t → t.Inv

/-- R39: every state reachable from a CORE at reset, with any host program, Byte Source and schedule, satisfies the
seven invariants. -/
def Obligations.ReachableStatesSatisfyTheInvariants : Prop :=
  ∀ (k : Nat) (s t : State), s.core = CoreState.reset → varsWf s.host.vars = true →
    Host.Core.run Sys2Proof.core k s = .next t → t.core.Reachable39

/-! ## The Producer's output and the digest (R59, R60, R136, R137, R170, R237) -/

/-- R58 to R60: an answer's bytes are the next bytes delivered, in order; the fill contract lasts; and a short answer is
the last. The contract is R59's with no Error answer, which is the model's choice (notes/assumptions/18.md). -/
def Obligations.FillsDeliverTheStreamInOrder : Prop :=
  ∀ (src src' : ByteSource) (bytes : List Byte) (h : bytes.length ≤ 64), src.fill = (.data bytes h, src') →
    deliveredBytes src.answers src.stream = bytes ++ deliveredBytes src'.answers src'.stream ∧
    (keepsContract src.answers src.stream →
      keepsContract src'.answers src'.stream ∧
      (bytes.length < 64 → deliveredBytes src'.answers src'.stream = []))

/-- R136: the padded stream is a whole number of blocks, the count R136 gives, and the least multiple of 64 above L + 8;
it begins with the stream and the marker 0x80 and ends with the length field. -/
def Obligations.PaddedStreamIsTheLeastWholeNumberOfBlocks : Prop :=
  ∀ (m : List Byte),
    (padded m).length = 64 * blockCount m.length ∧
    m.length + 8 < 64 * blockCount m.length ∧ 64 * blockCount m.length ≤ m.length + 8 + 64 ∧
    (padded m).take (m.length + 1) = m ++ [0x80#8] ∧
    (padded m).drop (64 * blockCount m.length - 8) = le64bytes (BitVec.ofNat 64 (8 * m.length))

/-- R124 to R128, R135, R137: in Reading, with the first q blocks of a stream consumed, NEXT_BLOCK returns block q of the
padded stream; where the padding spills, PADBUF is block q + 1. -/
def Obligations.ReadingReturnsTheBlocksOfThePaddedStream : Prop :=
  ∀ (s : State) (m : List Byte) (q : Nat), s.core.pstate = .reading → 64 * q ≤ m.length →
    s.core.len = BitVec.ofNat 64 (64 * q) → s.source.answers = [] → s.source.stream = m.drop (64 * q) →
    ∃ t, exec .nextBlock s = .next t ∧ t.core.blk = blockOf m q ∧ t.core.blkValid = true ∧
      t.source.stream = m.drop (64 * (q + 1)) ∧
      (64 * (q + 1) ≤ m.length → t.core.pstate = .reading ∧ t.core.len = BitVec.ofNat 64 (64 * (q + 1))) ∧
      (m.length < 64 * (q + 1) → t.core.len = BitVec.ofNat 64 m.length ∧
        (m.length % 64 ≤ 55 → t.core.pstate = .done) ∧
        (56 ≤ m.length % 64 → t.core.pstate = .emittingPadding ∧ t.core.padbuf = blockOf m (q + 1)))

/-- R170, R59, R137: for every stream of L bytes, delivered by any Byte Source that keeps the fill contract, and from
every state with BUSY = 0, the command sequence of HASH (`hashCommands`, at the level of the CORE; its loop entered at
most L/64 + 3 times, which is enough) ends without a fault with FINAL = 1, and H_A..H_D hold the digest of the stream,
LEN its byte count. The contract is R59's with no Error answer, which is the model's choice (notes/assumptions/18.md);
R170 asks for "no fault", and an Error answer would raise one. -/
def Obligations.HashCommandsComputeTheDigest : Prop :=
  ∀ (s : State) (m : List Byte), s.core.busy = false → keepsContract s.source.answers s.source.stream →
    deliveredBytes s.source.answers s.source.stream = m →
    ∃ t, hashCommands (m.length / 64 + 3) s = .next t ∧
      t.core.digestState = digestStateOf m ∧ t.core.digest = digestOf m ∧
      t.core.final = true ∧ t.core.fault = false ∧ t.core.busy = false ∧
      t.core.len = BitVec.ofNat 64 m.length

/-- R237: from reset, whatever the Byte Source answers, the commands of a computation that does not fault complete in the
order of R237. The optional INIT at its front is left out: an INIT begins another computation. -/
def Obligations.FaultFreeCommandsFollowTheOrder : Prop :=
  ∀ (src : ByteSource) (cmds : List Instr) (done : List Completed), Instr.init ∉ cmds →
    completedCommands cmds { State.reset with source := src } = some done → followsOrder .asking done = true
end

