-- ==== Sys2Proof/Laws/Encoding.lean ====
section
/-! SUPPORT. What the decoder can answer (R85). -/

namespace Sys2Proof

/-- Everything decode can answer: one of the four words with its command, or ILLEGAL. -/
theorem decode_cases (v : Word) :
    (v = 1#32 ∧ decode v = .command .init) ∨ (v = 2#32 ∧ decode v = .command .nextBlock) ∨
    (v = 3#32 ∧ decode v = .command .processBlock) ∨ (v = 4#32 ∧ decode v = .command .finalize) ∨
    (v ≠ 1#32 ∧ v ≠ 2#32 ∧ v ≠ 3#32 ∧ v ≠ 4#32 ∧ decode v = .illegal (illegalKind v)) := by
  unfold decode
  split
  · exact .inl ⟨‹_›, rfl⟩
  · split
    · exact .inr (.inl ⟨‹_›, rfl⟩)
    · split
      · exact .inr (.inr (.inl ⟨‹_›, rfl⟩))
      · split
        · exact .inr (.inr (.inr (.inl ⟨‹_›, rfl⟩)))
        · exact .inr (.inr (.inr (.inr ⟨‹_›, ‹_›, ‹_›, ‹_›, rfl⟩)))

end Sys2Proof
end

