-- ==== Sys2Proof/Laws/State.lean ====
section
/-! SUPPORT. One lemma per field per update of the state, so that no later proof unfolds a record update. -/

namespace Sys2Proof.Machine

variable (c : CoreState) (s : State)

/-! ## CoreState.issue -/

@[simp] theorem CoreState.issue_hA (i : Instr) : (c.issue i).hA = c.hA := rfl
@[simp] theorem CoreState.issue_hB (i : Instr) : (c.issue i).hB = c.hB := rfl
@[simp] theorem CoreState.issue_hC (i : Instr) : (c.issue i).hC = c.hC := rfl
@[simp] theorem CoreState.issue_hD (i : Instr) : (c.issue i).hD = c.hD := rfl
@[simp] theorem CoreState.issue_pstate (i : Instr) : (c.issue i).pstate = c.pstate := rfl
@[simp] theorem CoreState.issue_padbuf (i : Instr) : (c.issue i).padbuf = c.padbuf := rfl
@[simp] theorem CoreState.issue_len (i : Instr) : (c.issue i).len = c.len := rfl
@[simp] theorem CoreState.issue_blk (i : Instr) : (c.issue i).blk = c.blk := rfl
@[simp] theorem CoreState.issue_blkValid (i : Instr) : (c.issue i).blkValid = c.blkValid := rfl
@[simp] theorem CoreState.issue_exhausted (i : Instr) : (c.issue i).exhausted = c.exhausted := rfl
@[simp] theorem CoreState.issue_final (i : Instr) : (c.issue i).final = c.final := rfl
@[simp] theorem CoreState.issue_fault (i : Instr) : (c.issue i).fault = c.fault := rfl
@[simp] theorem CoreState.issue_fcode (i : Instr) : (c.issue i).fcode = c.fcode := rfl
@[simp] theorem CoreState.issue_busy (i : Instr) : (c.issue i).busy = true := rfl
@[simp] theorem CoreState.issue_pending (i : Instr) : (c.issue i).pending = some i := rfl

/-! ## CoreState.finish -/

@[simp] theorem CoreState.finish_hA : (c.finish).hA = c.hA := rfl
@[simp] theorem CoreState.finish_hB : (c.finish).hB = c.hB := rfl
@[simp] theorem CoreState.finish_hC : (c.finish).hC = c.hC := rfl
@[simp] theorem CoreState.finish_hD : (c.finish).hD = c.hD := rfl
@[simp] theorem CoreState.finish_pstate : (c.finish).pstate = c.pstate := rfl
@[simp] theorem CoreState.finish_padbuf : (c.finish).padbuf = c.padbuf := rfl
@[simp] theorem CoreState.finish_len : (c.finish).len = c.len := rfl
@[simp] theorem CoreState.finish_blk : (c.finish).blk = c.blk := rfl
@[simp] theorem CoreState.finish_blkValid : (c.finish).blkValid = c.blkValid := rfl
@[simp] theorem CoreState.finish_exhausted : (c.finish).exhausted = c.exhausted := rfl
@[simp] theorem CoreState.finish_final : (c.finish).final = c.final := rfl
@[simp] theorem CoreState.finish_fault : (c.finish).fault = c.fault := rfl
@[simp] theorem CoreState.finish_fcode : (c.finish).fcode = c.fcode := rfl
@[simp] theorem CoreState.finish_busy : (c.finish).busy = false := rfl
@[simp] theorem CoreState.finish_pending : (c.finish).pending = none := rfl

/-! ## CoreState.deliver -/

@[simp] theorem CoreState.deliver_hA (b : Block) : (c.deliver b).hA = c.hA := rfl
@[simp] theorem CoreState.deliver_hB (b : Block) : (c.deliver b).hB = c.hB := rfl
@[simp] theorem CoreState.deliver_hC (b : Block) : (c.deliver b).hC = c.hC := rfl
@[simp] theorem CoreState.deliver_hD (b : Block) : (c.deliver b).hD = c.hD := rfl
@[simp] theorem CoreState.deliver_pstate (b : Block) : (c.deliver b).pstate = c.pstate := rfl
@[simp] theorem CoreState.deliver_padbuf (b : Block) : (c.deliver b).padbuf = c.padbuf := rfl
@[simp] theorem CoreState.deliver_len (b : Block) : (c.deliver b).len = c.len := rfl
@[simp] theorem CoreState.deliver_blk (b : Block) : (c.deliver b).blk = b := rfl
@[simp] theorem CoreState.deliver_blkValid (b : Block) : (c.deliver b).blkValid = true := rfl
@[simp] theorem CoreState.deliver_exhausted (b : Block) : (c.deliver b).exhausted = false := rfl
@[simp] theorem CoreState.deliver_final (b : Block) : (c.deliver b).final = c.final := rfl
@[simp] theorem CoreState.deliver_fault (b : Block) : (c.deliver b).fault = c.fault := rfl
@[simp] theorem CoreState.deliver_fcode (b : Block) : (c.deliver b).fcode = c.fcode := rfl
@[simp] theorem CoreState.deliver_busy (b : Block) : (c.deliver b).busy = c.busy := rfl
@[simp] theorem CoreState.deliver_pending (b : Block) : (c.deliver b).pending = c.pending := rfl

/-! ## CoreState.withDigest -/

@[simp] theorem CoreState.withDigest_hA (q : Quad) : (c.withDigest q).hA = q.a := rfl
@[simp] theorem CoreState.withDigest_hB (q : Quad) : (c.withDigest q).hB = q.b := rfl
@[simp] theorem CoreState.withDigest_hC (q : Quad) : (c.withDigest q).hC = q.c := rfl
@[simp] theorem CoreState.withDigest_hD (q : Quad) : (c.withDigest q).hD = q.d := rfl
@[simp] theorem CoreState.withDigest_pstate (q : Quad) : (c.withDigest q).pstate = c.pstate := rfl
@[simp] theorem CoreState.withDigest_padbuf (q : Quad) : (c.withDigest q).padbuf = c.padbuf := rfl
@[simp] theorem CoreState.withDigest_len (q : Quad) : (c.withDigest q).len = c.len := rfl
@[simp] theorem CoreState.withDigest_blk (q : Quad) : (c.withDigest q).blk = c.blk := rfl
@[simp] theorem CoreState.withDigest_blkValid (q : Quad) : (c.withDigest q).blkValid = c.blkValid := rfl
@[simp] theorem CoreState.withDigest_exhausted (q : Quad) : (c.withDigest q).exhausted = c.exhausted := rfl
@[simp] theorem CoreState.withDigest_final (q : Quad) : (c.withDigest q).final = c.final := rfl
@[simp] theorem CoreState.withDigest_fault (q : Quad) : (c.withDigest q).fault = c.fault := rfl
@[simp] theorem CoreState.withDigest_fcode (q : Quad) : (c.withDigest q).fcode = c.fcode := rfl
@[simp] theorem CoreState.withDigest_busy (q : Quad) : (c.withDigest q).busy = c.busy := rfl
@[simp] theorem CoreState.withDigest_pending (q : Quad) : (c.withDigest q).pending = c.pending := rfl

/-! ## CoreState.count -/

@[simp] theorem CoreState.count_hA (n : Nat) : (c.count n).hA = c.hA := rfl
@[simp] theorem CoreState.count_hB (n : Nat) : (c.count n).hB = c.hB := rfl
@[simp] theorem CoreState.count_hC (n : Nat) : (c.count n).hC = c.hC := rfl
@[simp] theorem CoreState.count_hD (n : Nat) : (c.count n).hD = c.hD := rfl
@[simp] theorem CoreState.count_pstate (n : Nat) : (c.count n).pstate = c.pstate := rfl
@[simp] theorem CoreState.count_padbuf (n : Nat) : (c.count n).padbuf = c.padbuf := rfl
@[simp] theorem CoreState.count_len (n : Nat) : (c.count n).len = c.len + BitVec.ofNat 64 n := rfl
@[simp] theorem CoreState.count_blk (n : Nat) : (c.count n).blk = c.blk := rfl
@[simp] theorem CoreState.count_blkValid (n : Nat) : (c.count n).blkValid = c.blkValid := rfl
@[simp] theorem CoreState.count_exhausted (n : Nat) : (c.count n).exhausted = c.exhausted := rfl
@[simp] theorem CoreState.count_final (n : Nat) : (c.count n).final = c.final := rfl
@[simp] theorem CoreState.count_fault (n : Nat) : (c.count n).fault = c.fault := rfl
@[simp] theorem CoreState.count_fcode (n : Nat) : (c.count n).fcode = c.fcode := rfl
@[simp] theorem CoreState.count_busy (n : Nat) : (c.count n).busy = c.busy := rfl
@[simp] theorem CoreState.count_pending (n : Nat) : (c.count n).pending = c.pending := rfl

/-! ## CoreState.reportExhausted -/

@[simp] theorem CoreState.reportExhausted_hA : (c.reportExhausted).hA = c.hA := rfl
@[simp] theorem CoreState.reportExhausted_hB : (c.reportExhausted).hB = c.hB := rfl
@[simp] theorem CoreState.reportExhausted_hC : (c.reportExhausted).hC = c.hC := rfl
@[simp] theorem CoreState.reportExhausted_hD : (c.reportExhausted).hD = c.hD := rfl
@[simp] theorem CoreState.reportExhausted_pstate : (c.reportExhausted).pstate = c.pstate := rfl
@[simp] theorem CoreState.reportExhausted_padbuf : (c.reportExhausted).padbuf = c.padbuf := rfl
@[simp] theorem CoreState.reportExhausted_len : (c.reportExhausted).len = c.len := rfl
@[simp] theorem CoreState.reportExhausted_blk : (c.reportExhausted).blk = c.blk := rfl
@[simp] theorem CoreState.reportExhausted_blkValid : (c.reportExhausted).blkValid = c.blkValid := rfl
@[simp] theorem CoreState.reportExhausted_exhausted : (c.reportExhausted).exhausted = true := rfl
@[simp] theorem CoreState.reportExhausted_final : (c.reportExhausted).final = c.final := rfl
@[simp] theorem CoreState.reportExhausted_fault : (c.reportExhausted).fault = c.fault := rfl
@[simp] theorem CoreState.reportExhausted_fcode : (c.reportExhausted).fcode = c.fcode := rfl
@[simp] theorem CoreState.reportExhausted_busy : (c.reportExhausted).busy = c.busy := rfl
@[simp] theorem CoreState.reportExhausted_pending : (c.reportExhausted).pending = c.pending := rfl

/-! ## CoreState.fresh: a fresh computation keeps only BUSY and PENDING -/

@[simp] theorem CoreState.fresh_hA : (c.fresh).hA = CoreState.reset.hA := rfl
@[simp] theorem CoreState.fresh_hB : (c.fresh).hB = CoreState.reset.hB := rfl
@[simp] theorem CoreState.fresh_hC : (c.fresh).hC = CoreState.reset.hC := rfl
@[simp] theorem CoreState.fresh_hD : (c.fresh).hD = CoreState.reset.hD := rfl
@[simp] theorem CoreState.fresh_pstate : (c.fresh).pstate = CoreState.reset.pstate := rfl
@[simp] theorem CoreState.fresh_padbuf : (c.fresh).padbuf = CoreState.reset.padbuf := rfl
@[simp] theorem CoreState.fresh_len : (c.fresh).len = CoreState.reset.len := rfl
@[simp] theorem CoreState.fresh_blk : (c.fresh).blk = CoreState.reset.blk := rfl
@[simp] theorem CoreState.fresh_blkValid : (c.fresh).blkValid = CoreState.reset.blkValid := rfl
@[simp] theorem CoreState.fresh_exhausted : (c.fresh).exhausted = CoreState.reset.exhausted := rfl
@[simp] theorem CoreState.fresh_final : (c.fresh).final = CoreState.reset.final := rfl
@[simp] theorem CoreState.fresh_fault : (c.fresh).fault = CoreState.reset.fault := rfl
@[simp] theorem CoreState.fresh_fcode : (c.fresh).fcode = CoreState.reset.fcode := rfl
@[simp] theorem CoreState.fresh_busy : (c.fresh).busy = c.busy := rfl
@[simp] theorem CoreState.fresh_pending : (c.fresh).pending = c.pending := rfl

/-! ## CoreState.raise: only FAULT and FCODE, and only the first -/

@[simp] theorem CoreState.raise_hA (f : FaultCode) : (c.raise f).hA = c.hA := by
  unfold CoreState.raise; split <;> rfl
@[simp] theorem CoreState.raise_hB (f : FaultCode) : (c.raise f).hB = c.hB := by
  unfold CoreState.raise; split <;> rfl
@[simp] theorem CoreState.raise_hC (f : FaultCode) : (c.raise f).hC = c.hC := by
  unfold CoreState.raise; split <;> rfl
@[simp] theorem CoreState.raise_hD (f : FaultCode) : (c.raise f).hD = c.hD := by
  unfold CoreState.raise; split <;> rfl
@[simp] theorem CoreState.raise_pstate (f : FaultCode) : (c.raise f).pstate = c.pstate := by
  unfold CoreState.raise; split <;> rfl
@[simp] theorem CoreState.raise_padbuf (f : FaultCode) : (c.raise f).padbuf = c.padbuf := by
  unfold CoreState.raise; split <;> rfl
@[simp] theorem CoreState.raise_len (f : FaultCode) : (c.raise f).len = c.len := by
  unfold CoreState.raise; split <;> rfl
@[simp] theorem CoreState.raise_blk (f : FaultCode) : (c.raise f).blk = c.blk := by
  unfold CoreState.raise; split <;> rfl
@[simp] theorem CoreState.raise_blkValid (f : FaultCode) : (c.raise f).blkValid = c.blkValid := by
  unfold CoreState.raise; split <;> rfl
@[simp] theorem CoreState.raise_exhausted (f : FaultCode) : (c.raise f).exhausted = c.exhausted := by
  unfold CoreState.raise; split <;> rfl
@[simp] theorem CoreState.raise_final (f : FaultCode) : (c.raise f).final = c.final := by
  unfold CoreState.raise; split <;> rfl
@[simp] theorem CoreState.raise_fault (f : FaultCode) : (c.raise f).fault = true := by
  unfold CoreState.raise; split <;> simp_all
theorem CoreState.raise_fcode (f : FaultCode) :
    (c.raise f).fcode = if c.fault then c.fcode else f.code := by
  unfold CoreState.raise; split <;> rfl
@[simp] theorem CoreState.raise_busy (f : FaultCode) : (c.raise f).busy = c.busy := by
  unfold CoreState.raise; split <;> rfl
@[simp] theorem CoreState.raise_pending (f : FaultCode) : (c.raise f).pending = c.pending := by
  unfold CoreState.raise; split <;> rfl

/-! ## The machine's updates -/

@[simp] theorem State.withCore_core (x : CoreState) : (s.withCore x).core = x := rfl
@[simp] theorem State.withCore_host (x : CoreState) : (s.withCore x).host = s.host := rfl
@[simp] theorem State.withCore_source (x : CoreState) : (s.withCore x).source = s.source := rfl
@[simp] theorem State.withCore_sched (x : CoreState) : (s.withCore x).sched = s.sched := rfl
@[simp] theorem State.withCore_draws (x : CoreState) : (s.withCore x).draws = s.draws := rfl
@[simp] theorem State.withCore_place (x : CoreState) : (s.withCore x).place = s.place := rfl

@[simp] theorem State.withSource_core (x : ByteSource) : (s.withSource x).core = s.core := rfl
@[simp] theorem State.withSource_host (x : ByteSource) : (s.withSource x).host = s.host := rfl
@[simp] theorem State.withSource_source (x : ByteSource) : (s.withSource x).source = x := rfl
@[simp] theorem State.withSource_sched (x : ByteSource) : (s.withSource x).sched = s.sched := rfl
@[simp] theorem State.withSource_draws (x : ByteSource) : (s.withSource x).draws = s.draws := rfl
@[simp] theorem State.withSource_place (x : ByteSource) : (s.withSource x).place = s.place := rfl

@[simp] theorem State.draw_core : (s.draw).core = s.core := rfl
@[simp] theorem State.draw_host : (s.draw).host = s.host := rfl
@[simp] theorem State.draw_source : (s.draw).source = s.source := rfl
@[simp] theorem State.draw_sched : (s.draw).sched = s.sched := rfl
@[simp] theorem State.draw_draws : (s.draw).draws = s.draws + 1 := rfl
@[simp] theorem State.draw_place : (s.draw).place = s.place := rfl

@[simp] theorem State.hostGoto_core (n : Nat) : (s.hostGoto n).core = s.core := rfl
@[simp] theorem State.hostGoto_host (n : Nat) : (s.hostGoto n).host = { s.host with pc := n } := rfl
@[simp] theorem State.hostGoto_source (n : Nat) : (s.hostGoto n).source = s.source := rfl
@[simp] theorem State.hostGoto_sched (n : Nat) : (s.hostGoto n).sched = s.sched := rfl
@[simp] theorem State.hostGoto_draws (n : Nat) : (s.hostGoto n).draws = s.draws := rfl
@[simp] theorem State.hostGoto_place (n : Nat) : (s.hostGoto n).place = s.place := rfl

@[simp] theorem State.hostNext_core : (s.hostNext).core = s.core := rfl
@[simp] theorem State.hostNext_host : (s.hostNext).host = { s.host with pc := s.host.pc + 1 } := rfl
@[simp] theorem State.hostNext_source : (s.hostNext).source = s.source := rfl
@[simp] theorem State.hostNext_sched : (s.hostNext).sched = s.sched := rfl
@[simp] theorem State.hostNext_draws : (s.hostNext).draws = s.draws := rfl
@[simp] theorem State.hostNext_place : (s.hostNext).place = s.place := rfl

@[simp] theorem State.hostSet_core (v : HostVar) (w : Word) : (s.hostSet v w).core = s.core := rfl
@[simp] theorem State.hostSet_host (v : HostVar) (w : Word) : (s.hostSet v w).host = s.host.set v w := rfl
@[simp] theorem State.hostSet_source (v : HostVar) (w : Word) : (s.hostSet v w).source = s.source := rfl
@[simp] theorem State.hostSet_sched (v : HostVar) (w : Word) : (s.hostSet v w).sched = s.sched := rfl
@[simp] theorem State.hostSet_draws (v : HostVar) (w : Word) : (s.hostSet v w).draws = s.draws := rfl
@[simp] theorem State.hostSet_place (v : HostVar) (w : Word) : (s.hostSet v w).place = s.place := rfl

@[simp] theorem HostAgent.set_program (h : HostAgent) (v : HostVar) (w : Word) : (h.set v w).program = h.program := rfl
@[simp] theorem HostAgent.set_pc (h : HostAgent) (v : HostVar) (w : Word) : (h.set v w).pc = h.pc := rfl
@[simp] theorem HostAgent.set_vars (h : HostAgent) (v : HostVar) (w : Word) :
    (h.set v w).vars = writeVars h.vars v.key w := rfl

end Sys2Proof.Machine
end

