-- ==== Sys2Proof/Laws/Ops.lean ====
section
/-! SUPPORT. What each shared operation does: the fault latch, SourceFill, the host's variables and labels. -/

namespace Sys2Proof.Machine

/-! ## The fault latch (R201) -/

/-- While FAULT = 1, raising a fault changes nothing (R201, R215). -/
theorem CoreState.raise_of_fault {c : CoreState} (h : c.fault = true) (f : FaultCode) : c.raise f = c := by
  simp [CoreState.raise, h]

/-- The first fault writes FAULT and FCODE and nothing else (R201). -/
theorem CoreState.raise_of_clear {c : CoreState} (h : c.fault = false) (f : FaultCode) :
    c.raise f = { c with fault := true, fcode := f.code } := by
  simp [CoreState.raise, h]

/-- Every fault code is in 1..7 (R202). -/
theorem FaultCode.code_range (f : FaultCode) : 1 ≤ f.code.toNat ∧ f.code.toNat ≤ 7 := by
  cases f <;> decide

/-! ## SourceFill(64) (R58) -/

/-- Everything a fill can do: take the next prepared answer, or the next 64 bytes of the stream. -/
theorem ByteSource.fill_cases (src : ByteSource) :
    (∃ a rest, src.answers = a :: rest ∧ src.fill = (a, { src with answers := rest })) ∨
    (src.answers = [] ∧ ∃ h, src.fill = (.data (src.stream.take 64) h, { src with stream := src.stream.drop 64 })) := by
  obtain ⟨answers, stream⟩ := src
  cases answers with
  | nil => exact .inr ⟨rfl, _, rfl⟩
  | cons a rest => exact .inl ⟨a, rest, rfl, rfl⟩

/-! ## The host's variables (R86) -/

/-- In a canonical list every key is at least the first. -/
theorem varsWf_cons {k : Nat} {x : Word} {rest : List (Nat × Word)} :
    varsWf ((k, x) :: rest) = true ↔ x ≠ 0#32 ∧ (∀ p ∈ rest, k < p.1) ∧ varsWf rest = true := by
  induction rest generalizing k x with
  | nil => simp [varsWf]
  | cons p rest ih =>
    obtain ⟨k', x'⟩ := p
    rw [show varsWf ((k, x) :: (k', x') :: rest) =
      (x != 0#32 && decide (k < k') && varsWf ((k', x') :: rest)) from rfl]
    simp only [Bool.and_eq_true, bne_iff_ne, ne_eq, decide_eq_true_eq, List.mem_cons, forall_eq_or_imp]
    constructor
    · rintro ⟨⟨hx, hk⟩, hr⟩
      refine ⟨hx, ⟨hk, fun p hp => ?_⟩, hr⟩
      exact Nat.lt_trans hk ((ih.mp hr).2.1 p hp)
    · rintro ⟨hx, ⟨hk, -⟩, hr⟩
      exact ⟨⟨hx, hk⟩, hr⟩

/-- A key below every listed one reads 0. -/
theorem readVars_of_lt {l : List (Nat × Word)} {n : Nat} (h : ∀ p ∈ l, n < p.1) : readVars l n = 0#32 := by
  induction l with
  | nil => rfl
  | cons p rest ih =>
    obtain ⟨k, x⟩ := p
    have hk : n < k := h (k, x) (by simp)
    rw [readVars, if_neg (by omega)]
    exact ih fun p hp => h p (by simp [hp])

/-- Reading back what was written. -/
theorem readVars_writeVars_self {l : List (Nat × Word)} (h : varsWf l = true) (n : Nat) (w : Word) :
    readVars (writeVars l n w) n = w := by
  induction l with
  | nil => by_cases hw : w = 0#32 <;> simp [writeVars, readVars, hw]
  | cons p rest ih =>
    obtain ⟨k, x⟩ := p
    obtain ⟨-, hk, hr⟩ := varsWf_cons.mp h
    simp only [writeVars]
    split
    · split
      · rename_i hlt hw
        rw [hw]
        refine readVars_of_lt fun p hp => ?_
        rcases List.mem_cons.mp hp with rfl | hp
        · exact hlt
        · exact Nat.lt_trans hlt (hk p hp)
      · simp [readVars]
    · split
      · rename_i heq
        split
        · rename_i hw
          rw [hw, heq]
          exact readVars_of_lt hk
        · simp [readVars]
      · rename_i hne
        rw [readVars, if_neg hne]
        exact ih hr

/-- A write leaves every other variable alone. -/
theorem readVars_writeVars_ne (l : List (Nat × Word)) {n m : Nat} (hnm : m ≠ n) (w : Word) :
    readVars (writeVars l n w) m = readVars l m := by
  induction l with
  | nil => by_cases hw : w = 0#32 <;> simp [writeVars, readVars, hw, hnm]
  | cons p rest ih =>
    obtain ⟨k, x⟩ := p
    simp only [writeVars]
    split
    · split
      · rfl
      · rw [readVars, if_neg hnm]
    · split
      · rename_i heq
        subst heq
        split <;> simp [readVars, hnm]
      · simp [readVars, ih]

/-- A key written is listed under itself or is already listed. -/
theorem mem_writeVars {l : List (Nat × Word)} {n : Nat} {w : Word} {p : Nat × Word} (h : p ∈ writeVars l n w) :
    p.1 = n ∨ p ∈ l := by
  induction l with
  | nil =>
    simp only [writeVars] at h
    split at h <;> simp_all
  | cons q rest ih =>
    obtain ⟨k, x⟩ := q
    simp only [writeVars] at h
    split at h
    · split at h
      · exact .inr h
      · rcases List.mem_cons.mp h with rfl | h
        · exact .inl rfl
        · exact .inr h
    · split at h
      · split at h
        · exact .inr (List.mem_cons_of_mem _ h)
        · rcases List.mem_cons.mp h with rfl | h
          · exact .inl rfl
          · exact .inr (List.mem_cons_of_mem _ h)
      · rcases List.mem_cons.mp h with rfl | h
        · exact .inr (by simp)
        · exact (ih h).imp id (List.mem_cons_of_mem _)

/-- Every write keeps the canonical form. -/
theorem varsWf_writeVars {l : List (Nat × Word)} (h : varsWf l = true) (n : Nat) (w : Word) :
    varsWf (writeVars l n w) = true := by
  induction l with
  | nil => by_cases hw : w = 0#32 <;> simp [writeVars, varsWf, hw]
  | cons p rest ih =>
    obtain ⟨k, x⟩ := p
    obtain ⟨hx, hk, hr⟩ := varsWf_cons.mp h
    simp only [writeVars]
    split
    · rename_i hlt
      split
      · exact h
      · rename_i hw
        refine varsWf_cons.mpr ⟨hw, fun p hp => ?_, h⟩
        rcases List.mem_cons.mp hp with rfl | hp
        · exact hlt
        · exact Nat.lt_trans hlt (hk p hp)
    · split
      · rename_i heq
        split
        · exact hr
        · rename_i hw
          exact varsWf_cons.mpr ⟨hw, fun p hp => heq ▸ hk p hp, hr⟩
      · rename_i hlt hne
        refine varsWf_cons.mpr ⟨hx, fun p hp => ?_, ih hr⟩
        rcases mem_writeVars hp with hp | hp
        · omega
        · exact hk p hp

/-- Reading a host variable just written. -/
theorem HostAgent.get_set_self {h : HostAgent} (hw : varsWf h.vars = true) (v : HostVar) (w : Word) :
    (h.set v w).get v = w := readVars_writeVars_self hw v.key w

/-- Two host variables have different keys. -/
theorem HostVar.key_injective {u v : HostVar} (h : u.key = v.key) : u = v := by
  cases u <;> cases v <;> simp_all [HostVar.key]

/-- A host variable keeps its value when another is written. -/
theorem HostAgent.get_set_ne (h : HostAgent) {u v : HostVar} (huv : u ≠ v) (w : Word) :
    (h.set v w).get u = h.get u :=
  readVars_writeVars_ne h.vars (fun hk => huv (HostVar.key_injective hk)) w

/-! ## Labels (R86) -/

/-- A label's target is where the program defines it. -/
theorem labelTarget_spec {p : List HostInstr} {l n : Nat} (h : labelTarget p l = some n) :
    p[n]? = some (.label l) := by
  unfold labelTarget at h
  split at h
  · rename_i hc
    cases h
    have hm : HostInstr.label l ∈ p := List.count_pos_iff.mp (by omega)
    have hlt := List.idxOf_lt_length_iff.mpr hm
    rw [List.getElem?_eq_getElem hlt, List.getElem_idxOf hlt]
  · cases h

end Sys2Proof.Machine
end

