-- ==== Sys2Proof/Laws/Control.lean ====
section
/-! SUPPORT. What a register read, a CMD write and a bus write can do (R52, R100). -/

namespace Sys2Proof.Machine

/-- Everything a read that is no BusError can do: the register's value and the same machine, or a free value counted
as drawn. -/
theorem busRead_cases {off : Nat} {s s' : State} {w : Word} (h : busRead off s = some (w, s')) :
    mappedOffset off = true ∧
    (((off = cmdOffset ∨ off = statusOffset ∨ s.core.busy = false) ∧ w = s.core.register off ∧ s' = s) ∨
     (s.core.busy = true ∧ w = Config.busyRead s.place s.draws ∧ s' = s.draw)) := by
  unfold busRead at h
  split at h
  · split at h
    · simp only [Option.some.injEq, Prod.mk.injEq] at h
      exact ⟨‹_›, .inl ⟨‹_›, h.1.symm, h.2.symm⟩⟩
    · rename_i hb
      simp only [Option.some.injEq, Prod.mk.injEq] at h
      refine ⟨‹_›, .inr ⟨?_, h.1.symm, h.2.symm⟩⟩
      simp only [not_or, Bool.not_eq_false] at hb
      exact hb.2.2
  · cases h

/-- When a command's precondition holds, command by command (R101). -/
theorem precondition_eq_none {i : Instr} {c : CoreState} :
    precondition i c = none ↔
      (i = .nextBlock → c.blkValid = false) ∧ (i = .processBlock → c.final = false ∧ c.blkValid = true) ∧
      (i = .finalize → c.pstate = .done ∧ c.blkValid = false) := by
  cases i with
  | init => simp [precondition]
  | nextBlock => cases hv : c.blkValid <;> simp [precondition, hv]
  | processBlock => cases hf : c.final <;> cases hv : c.blkValid <;> simp [precondition, hf, hv]
  | finalize => cases hp : c.pstate <;> cases hv : c.blkValid <;> simp [precondition, hp, hv]

/-- A precondition reads only PSTATE, BLK_VALID and FINAL (R81, R101). -/
theorem precondition_congr {c d : CoreState} (hp : c.pstate = d.pstate) (hv : c.blkValid = d.blkValid)
    (hf : c.final = d.final) (i : Instr) : precondition i c = precondition i d := by
  cases i <;> simp only [precondition, hp, hv, hf]

/-- Everything a CMD write can do to the CORE: nothing (a discard), latch a first fault, or issue a command whose
precondition holds. -/
theorem cmdWrite_cases (v : Word) (c : CoreState) :
    (c.fault = true ∧ cmdWrite v c = c) ∨
    (c.fault = false ∧ ∃ f, cmdWrite v c = c.raise f) ∨
    (c.busy = false ∧ ∃ i, decode v = .command i ∧ (c.fault = false ∨ i = .init) ∧
      precondition i c = none ∧ cmdWrite v c = c.issue i) := by
  by_cases hf : c.fault = true
  · by_cases hb : c.busy = true
    · exact .inl ⟨hf, by simp [cmdWrite, hf, hb]⟩
    · cases hd : decode v with
      | command i =>
        by_cases hi : i = .init
        · subst hi
          exact .inr (.inr ⟨by simpa using hb, .init, rfl, .inr rfl, rfl, by simp [cmdWrite, hb, hd, precondition]⟩)
        · exact .inl ⟨hf, by simp [cmdWrite, hf, hb, hd, hi]⟩
      | illegal why => exact .inl ⟨hf, by simp [cmdWrite, hf, hb, hd]⟩
  · have hf' : c.fault = false := by simpa using hf
    by_cases hb : c.busy = true
    · exact .inr (.inl ⟨hf', .cmdWhileBusy, by simp [cmdWrite, hf, hb]⟩)
    · cases hd : decode v with
      | command i =>
        cases hp : precondition i c with
        | none => exact .inr (.inr ⟨by simpa using hb, i, rfl, .inl hf', hp, by simp [cmdWrite, hf, hb, hd, hp]⟩)
        | some f => exact .inr (.inl ⟨hf', f, by simp [cmdWrite, hf, hb, hd, hp]⟩)
      | illegal why => exact .inr (.inl ⟨hf', .illegalCmd, by simp [cmdWrite, hf, hb, hd]⟩)

/-- Everything a bus write that is no BusError can do: it is a CMD write, and only the CORE changes. -/
theorem busWrite_cases {off : Nat} {v : Word} {s s' : State} (h : busWrite off v s = some s') :
    off = cmdOffset ∧ s' = s.withCore (cmdWrite v s.core) := by
  unfold busWrite at h
  split at h
  · split at h
    · exact ⟨‹_›, (Option.some.inj h).symm⟩
    · cases h
  · cases h

end Sys2Proof.Machine
end

