-- ==== Sys2Proof/Laws/Engine.lean ====
section
/-! SUPPORT. The transform's step in R160's own order, and PROCESS_BLOCK field by field. -/

namespace Sys2Proof.Machine

/-- R160 as it is written: the order of the four additions does not matter. -/
theorem stepValue_eq (j : Nat) (q : Quad) (x : Block) :
    stepValue j q x =
      q.b + rotl32 (q.a + roundFn j q.b q.c q.d + blockWord x (wordIndex j) + sineConst (j + 1)) (shiftAmount j) := by
  have order (t a f b : Word) : t + a + f + b = a + f + b + t := by
    rw [BitVec.add_comm t a, BitVec.add_assoc a t f, BitVec.add_comm t f, ← BitVec.add_assoc a f t,
      BitVec.add_assoc (a + f) t b, BitVec.add_comm t b, ← BitVec.add_assoc]
  rw [stepValue, order]

/-- PROCESS_BLOCK writes the digest state and BLK_VALID, and nothing else (R164). -/
theorem CoreState.processBlock_eq (c : CoreState) :
    c.processBlock =
      { c.withDigest (addBack c.digestState (compress c.digestState c.blk)) with blkValid := false } := rfl

/-- The digest state after PROCESS_BLOCK (R163, R164). -/
theorem CoreState.processBlock_digestState (c : CoreState) :
    c.processBlock.digestState = addBack c.digestState (compress c.digestState c.blk) := rfl

end Sys2Proof.Machine
end

