-- ==== Sys2Proof/Laws/Host.lean ====
section
/-! SUPPORT. What the Host's turn can do (R86): one case analysis, cited wherever a step is taken apart. -/

namespace Sys2Proof.Machine

/-- What a host statement leaves behind whatever it is: the schedule, the placement, the program, and canonical variables. -/
structure HostKept (s s' : State) : Prop where
  sched : s'.sched = s.sched
  place : s'.place = s.place
  program : s'.host.program = s.host.program
  vars : varsWf s.host.vars = true → varsWf s'.host.vars = true

/-- What a host statement does to the CORE and the Byte Source: nothing, one CMD write, or a new stream placed by
`SRC`. -/
inductive HostEffect (s s' : State) : Prop where
  | idle (core : s'.core = s.core) (source : s'.source = s.source)
  | write (v : Word) (core : s'.core = cmdWrite v s.core) (source : s'.source = s.source)
  | stream (bytes : List Byte) (at_pc : s.host.program[s.host.pc]? = some (.src bytes)) (core : s'.core = s.core)
      (source : s'.source = { s.source with stream := bytes })

theorem hostWrite_cases {off : Nat} {v : Word} {s s' : State} (h : hostWrite off v s = .next s') :
    off = cmdOffset ∧ s' = (s.withCore (cmdWrite v s.core)).hostNext := by
  unfold hostWrite at h
  split at h
  · rename_i t ht
    obtain ⟨ho, rfl⟩ := busWrite_cases ht
    exact ⟨ho, by injection h with h; exact h.symm⟩
  · cases h

theorem hostRead_cases {dst : HostVar} {off : Nat} {s s' : State} (h : hostRead dst off s = .next s') :
    ∃ w t, busRead off s = some (w, t) ∧ s' = (t.hostSet dst w).hostNext := by
  unfold hostRead at h
  split at h
  · rename_i w t ht
    exact ⟨w, t, ht, by injection h with h; exact h.symm⟩
  · cases h

theorem hostWrite_effect {off : Nat} {v : Word} {s s' : State} (h : hostWrite off v s = .next s') :
    HostKept s s' ∧ HostEffect s s' := by
  obtain ⟨-, rfl⟩ := hostWrite_cases h
  exact ⟨⟨rfl, rfl, rfl, id⟩, .write v rfl rfl⟩

theorem hostRead_effect {dst : HostVar} {off : Nat} {s s' : State} (h : hostRead dst off s = .next s') :
    HostKept s s' ∧ HostEffect s s' := by
  obtain ⟨w, t, ht, rfl⟩ := hostRead_cases h
  obtain ⟨-, ⟨-, -, rfl⟩ | ⟨-, -, rfl⟩⟩ := busRead_cases ht
  · exact ⟨⟨rfl, rfl, rfl, fun hv => varsWf_writeVars hv _ _⟩, .idle rfl rfl⟩
  · exact ⟨⟨rfl, rfl, rfl, fun hv => varsWf_writeVars hv _ _⟩, .idle rfl rfl⟩

theorem hostJump_effect {l : Nat} {s s' : State} (h : hostJump l s = .next s') :
    HostKept s s' ∧ HostEffect s s' := by
  unfold hostJump at h
  split at h
  · injection h with h
    subst h
    exact ⟨⟨rfl, rfl, rfl, id⟩, .idle rfl rfl⟩
  · cases h

theorem hostBranch_effect {v : HostVar} {bit : Fin 32} {b : Bool} {l : Nat} {s s' : State}
    (h : hostBranch v bit b l s = .next s') : HostKept s s' ∧ HostEffect s s' := by
  unfold hostBranch at h
  split at h
  · exact hostJump_effect h
  · injection h with h
    subst h
    exact ⟨⟨rfl, rfl, rfl, id⟩, .idle rfl rfl⟩

theorem hostAccess_effect {a : BusAccess} {s s' : State} (h : hostAccess a s = .next s') :
    HostKept s s' ∧ HostEffect s s' := by
  unfold hostAccess at h
  split at h
  · split at h
    · split at h
      · exact hostRead_effect h
      · exact hostWrite_effect h
    · cases h
  · cases h

/-- Everything the Host's turn can do. -/
theorem hostTurn_effect {s s' : State} (h : hostTurn s = .next s') : HostKept s s' ∧ HostEffect s s' := by
  unfold hostTurn at h
  split at h
  · rename_i i hi
    cases i with
    | wr off v => exact hostWrite_effect h
    | rd dst off => exact hostRead_effect h
    | bt v bit l => exact hostBranch_effect h
    | bf v bit l => exact hostBranch_effect h
    | j l => exact hostJump_effect h
    | label l =>
      injection h with h
      subst h
      exact ⟨⟨rfl, rfl, rfl, id⟩, .idle rfl rfl⟩
    | src bytes =>
      injection h with h
      subst h
      exact ⟨⟨rfl, rfl, rfl, id⟩, .stream bytes hi rfl rfl⟩
    | access a => exact hostAccess_effect h
  · injection h with h
    subst h
    exact ⟨⟨rfl, rfl, rfl, id⟩, .idle rfl rfl⟩

end Sys2Proof.Machine
end

