-- ==== Sys2Proof/Laws/Step.lean ====
section
/-! SUPPORT. What a command's completion and a step can do: the inversion lemmas that every claim over steps cites. -/

namespace Sys2Proof.Machine

/-! ## Completions (R104) -/

/-- The CORE after a completion, command by command. For NEXT_BLOCK in Reading the Byte Source's answer is an
argument. -/
def CoreState.completed (c : CoreState) (i : Instr) (ans : FillAnswer) : CoreState :=
  match i with
  | .init => c.fresh.finish
  | .nextBlock =>
    match c.pstate with
    | .reading => (c.readStep ans).finish
    | .emittingPadding => c.emitPadding.finish
    | .done => c.reportExhausted.finish
  | .processBlock => c.processBlock.finish
  | .finalize => { c with final := true }.finish

/-- The Byte Source is asked by NEXT_BLOCK in Reading and by nothing else (R60, R104). -/
def CoreState.asks (c : CoreState) (i : Instr) : Bool :=
  decide (i = .nextBlock) && decide (c.pstate = .reading)

/-- Every command completes: exec always answers a next state, and this is it. -/
theorem exec_eq (i : Instr) (s : State) :
    exec i s = .next { s with core := s.core.completed i s.source.fill.1,
                              source := if s.core.asks i then s.source.fill.2 else s.source } := by
  cases i with
  | init => rfl
  | nextBlock =>
    rcases hp : s.core.pstate <;>
      simp [exec, execNextBlock, CoreState.completed, CoreState.asks, hp, State.withCore, State.withSource]
  | processBlock => rfl
  | finalize => rfl

/-- A completion leaves no command pending (R104). -/
theorem CoreState.completed_idle (c : CoreState) (i : Instr) (ans : FillAnswer) :
    (c.completed i ans).busy = false ∧ (c.completed i ans).pending = none := by
  cases i with
  | nextBlock => rcases hp : c.pstate <;> simp [CoreState.completed, hp]
  | init => exact ⟨rfl, rfl⟩
  | processBlock => exact ⟨rfl, rfl⟩
  | finalize => exact ⟨rfl, rfl⟩

/-- Everything a read step can do (R122): latch the read failure, or count the bytes and return a block that is full,
fits its padding, or spills it. -/
theorem CoreState.readStep_cases (c : CoreState) (ans : FillAnswer) :
    (ans = .error ∧ c.readStep ans = c.raise .ioReadFailed) ∨
    ∃ bytes h, ans = .data bytes h ∧
      ((bytes.length = 64 ∧ c.readStep ans = (c.count 64).deliver (words16 bytes)) ∨
       (bytes.length ≤ 55 ∧ c.readStep ans = (c.count bytes.length).fitPadding bytes
          (bitLength (c.count bytes.length).len)) ∨
       (56 ≤ bytes.length ∧ bytes.length ≤ 63 ∧ c.readStep ans = (c.count bytes.length).spillPadding bytes
          (bitLength (c.count bytes.length).len))) := by
  cases ans with
  | error => exact .inl ⟨rfl, rfl⟩
  | data bytes h =>
    refine .inr ⟨bytes, h, rfl, ?_⟩
    by_cases h64 : bytes.length = 64
    · refine .inl ⟨h64, ?_⟩
      simp only [CoreState.readStep, h64, if_true, CoreState.fullBlock]
    · by_cases h55 : bytes.length ≤ 55
      · refine .inr (.inl ⟨h55, ?_⟩)
        simp only [CoreState.readStep, h64, if_false, CoreState.finalBlock, h55, if_true]
      · refine .inr (.inr ⟨by omega, by omega, ?_⟩)
        simp only [CoreState.readStep, h64, if_false, CoreState.finalBlock, h55, if_false]

/-! ## Turns and steps (R7) -/

/-- Everything one turn can do when it answers a next state. -/
inductive TurnEffect (t : Turn) (s s' : State) : Prop where
  /-- The Host's statement. -/
  | host (is_host : t = .host) (kept : HostKept s s') (effect : HostEffect s s')
  /-- The completion of the pending command. -/
  | completion (i : Instr) (is_core : t = .core) (busy : s.core.busy = true) (pending : s.core.pending = some i)
      (eq : s' = { s with core := s.core.completed i s.source.fill.1,
                          source := if s.core.asks i then s.source.fill.2 else s.source })
  /-- BUSY = 1 with nothing pending, which no run reaches. -/
  | empty (is_core : t = .core) (busy : s.core.busy = true) (pending : s.core.pending = none)
      (eq : s' = s.withCore s.core.finish)
  /-- The Core's turn while BUSY = 0. -/
  | idle (is_core : t = .core) (busy : s.core.busy = false) (eq : s' = s)
  /-- The reset event. -/
  | reset (is_reset : t = .reset) (eq : s' = hardwareReset s)

/-- Everything the Core's turn can do. -/
theorem coreTurn_cases (s : State) :
    (s.core.busy = false ∧ coreTurn s = .next s) ∨
    (s.core.busy = true ∧ s.core.pending = none ∧ coreTurn s = .next (s.withCore s.core.finish)) ∨
    (s.core.busy = true ∧ ∃ i, s.core.pending = some i ∧ coreTurn s = exec i s) := by
  unfold coreTurn
  cases hb : s.core.busy
  · exact .inl ⟨rfl, by simp⟩
  · cases hp : s.core.pending with
    | none => exact .inr (.inl ⟨rfl, rfl, by simp⟩)
    | some i => exact .inr (.inr ⟨rfl, i, rfl, by simp⟩)

theorem takeTurn_effect {t : Turn} {s s' : State} (h : takeTurn t s = .next s') : TurnEffect t s s' := by
  cases t with
  | host =>
    obtain ⟨k, e⟩ := hostTurn_effect h
    exact .host rfl k e
  | core =>
    replace h : coreTurn s = .next s' := h
    obtain ⟨hb, he⟩ | ⟨hb, hp, he⟩ | ⟨hb, i, hp, he⟩ := coreTurn_cases s
    · rw [he] at h
      injection h with h
      exact .idle rfl hb h.symm
    · rw [he] at h
      injection h with h
      exact .empty rfl hb hp h.symm
    · rw [he, exec_eq] at h
      injection h with h
      exact .completion i rfl hb hp h.symm
  | reset =>
    injection h with h
    exact .reset rfl h.symm

/-- The next turn takes at most itself off the schedule and changes nothing else. -/
theorem nextTurn_same (s : State) :
    (nextTurn s).2.core = s.core ∧ (nextTurn s).2.host = s.host ∧ (nextTurn s).2.source = s.source ∧
      (nextTurn s).2.draws = s.draws ∧ (nextTurn s).2.place = s.place ∧ (nextTurn s).2.sched = s.sched.tail := by
  obtain ⟨core, host, source, sched, draws, place⟩ := s
  cases sched <;> exact ⟨rfl, rfl, rfl, rfl, rfl, rfl⟩

/-- Everything a step can do when it answers a next state: the effect of its turn. -/
theorem step_effect {s s' : State} (h : step s = .next s') :
    TurnEffect (nextTurn s).1 (nextTurn s).2 s' := takeTurn_effect h

/-- The reset event leaves the CORE as R40 says, and the Host as it was (R230). -/
theorem hardwareReset_core (s : State) : (hardwareReset s).core = CoreState.reset := by
  unfold hardwareReset
  split <;> rfl

theorem hardwareReset_host (s : State) : (hardwareReset s).host = s.host := by
  unfold hardwareReset
  split <;> rfl

/-- The reset event leaves the placement as it was. -/
theorem hardwareReset_place (s : State) : (hardwareReset s).place = s.place := by
  unfold hardwareReset
  split <;> rfl

/-- No step changes which placement an instance is, so its BASE stays (R9, R51). -/
theorem step_place {s s' : State} (h : step s = .next s') : s'.place = s.place := by
  obtain ⟨-, -, -, -, hp, -⟩ := nextTurn_same s
  cases step_effect h with
  | host _ kept _ => rw [kept.place, hp]
  | completion i _ _ _ eq => rw [eq]; exact hp
  | empty _ _ _ eq => rw [eq]; exact hp
  | idle _ _ eq => rw [eq, hp]
  | reset _ eq => rw [eq, hardwareReset_place, hp]

/-- A reset that interrupts no fill leaves the Byte Source where it stands (R230). -/
theorem hardwareReset_source {s : State} (h : s.core.fillPending = false) : (hardwareReset s).source = s.source := by
  simp [hardwareReset, h]

end Sys2Proof.Machine
end

