-- ==== Sys2Proof/Laws/Instances.lean ====
section
/-! SUPPORT. What a step of one instance of a system can do (R220). -/

namespace Sys2Proof.Machine

/-- Everything a step of instance k can do when it answers a next system: replace that instance by its own next state,
or nothing where there is no such instance. -/
theorem stepInstance_cases {k : Nat} {sys sys' : List State} (h : stepInstance k sys = .next sys') :
    (∃ s t, sys[k]? = some s ∧ step s = .next t ∧ sys' = sys.set k t) ∨ (sys[k]? = none ∧ sys' = sys) := by
  unfold stepInstance at h
  split at h
  · rename_i s hs
    split at h
    · rename_i t ht
      injection h with h
      exact .inl ⟨s, t, hs, ht, h.symm⟩
    · cases h
    · cases h
  · rename_i hs
    injection h with h
    exact .inr ⟨hs, h.symm⟩

/-- An instance that can step moves the system by that step alone. -/
theorem stepInstance_next {k : Nat} {sys : List State} {s t : State} (hs : sys[k]? = some s)
    (ht : step s = .next t) : stepInstance k sys = .next (sys.set k t) := by
  simp [stepInstance, hs, ht]

/-- No step of an instance changes a placement. -/
theorem stepInstance_places {k : Nat} {sys sys' : List State} (h : stepInstance k sys = .next sys') :
    sys'.map State.place = sys.map State.place := by
  obtain ⟨s, t, hs, ht, rfl⟩ | ⟨-, rfl⟩ := stepInstance_cases h
  · obtain ⟨hk, rfl⟩ := List.getElem?_eq_some_iff.mp hs
    rw [List.map_set, step_place ht, ← List.getElem_map State.place (h := by simpa using hk)]
    exact List.set_getElem_self _
  · rfl

/-- Instances keep windows of their own (R220). -/
theorem stepInstance_ownWindows {k : Nat} {sys sys' : List State} (h : stepInstance k sys = .next sys')
    (hw : ownWindows sys) : ownWindows sys' := by
  have key : ∀ l : List State, (l.map fun s => Config.base s.place) = (l.map State.place).map Config.base := by
    intro l
    simp
  unfold ownWindows at *
  rw [key] at *
  rwa [stepInstance_places h]

end Sys2Proof.Machine
end

