-- ==== Sys2Proof/Laws/PerInstr.lean ====
section
/-! SUPPORT. The families of statements made instruction by instruction (LAWS.json). Layout: a command word is OP
under a zero RSV field, and OP is the one R82 gives. -/

/-- The layout of a command's word (R80, R82): RSV is 0, OP is its opcode, and the word is well formed. -/
def Sys2Proof.Laws.Layout.Statement (i : Sys2Proof.Instr) : Prop :=
  Sys2Proof.rsvField (Sys2Proof.encode i) = 0 ∧ Sys2Proof.opField (Sys2Proof.encode i) = Sys2Proof.opcode i ∧
    Sys2Proof.wordWf (Sys2Proof.encode i) = i.wf

theorem Sys2Proof.Laws.Layout.init : Sys2Proof.Laws.Layout.Statement .init := ⟨by decide, by decide, by decide⟩

theorem Sys2Proof.Laws.Layout.nextBlock : Sys2Proof.Laws.Layout.Statement .nextBlock :=
  ⟨by decide, by decide, by decide⟩

theorem Sys2Proof.Laws.Layout.processBlock : Sys2Proof.Laws.Layout.Statement .processBlock :=
  ⟨by decide, by decide, by decide⟩

theorem Sys2Proof.Laws.Layout.finalize : Sys2Proof.Laws.Layout.Statement .finalize :=
  ⟨by decide, by decide, by decide⟩
end

