-- ==== Sys2Proof/Laws/Producer.lean ====
section
/-! SUPPORT. The words of a buffer and of the length block (R127, R128). -/

namespace Sys2Proof.Machine

/-- A word of `words16` is the word at its place in the buffer. -/
theorem words16_get (buf : List Byte) (i : Fin 16) : (words16 buf)[i] = wordAt buf i.val := by
  obtain ⟨i, hi⟩ := i
  interval_cases i <;> rfl

/-- Four consecutive little-endian bytes of a 64-bit value make its 32-bit field (R12). -/
theorem le32_of_fields (v : BitVec 64) (k : Nat) :
    le32 (v.extractLsb' k 8) (v.extractLsb' (k + 8) 8) (v.extractLsb' (k + 16) 8) (v.extractLsb' (k + 24) 8) =
      v.extractLsb' k 32 := by
  apply BitVec.eq_of_getLsbD_eq
  intro i hi
  simp only [le32, BitVec.getLsbD_or, BitVec.getLsbD_shiftLeft, BitVec.getLsbD_setWidth,
    BitVec.getLsbD_extractLsb', hi, decide_true, Bool.true_and]
  by_cases h8 : i < 8
  · simp [h8, show i < 16 by omega, show i < 24 by omega]
  · by_cases h16 : i < 16
    · simp [h8, h16, show i < 24 by omega, show i - 8 < 8 by omega, show k + 8 + (i - 8) = k + i by omega]
      intro h; omega
    · by_cases h24 : i < 24
      · simp [h8, h16, h24, show ¬ i - 8 < 8 by omega, show i - 16 < 8 by omega, show k + 16 + (i - 16) = k + i by omega]
        intro h; omega
      · simp [h8, h16, h24, show ¬ i - 8 < 8 by omega, show ¬ i - 16 < 8 by omega, show i - 24 < 8 by omega,
          show k + 24 + (i - 24) = k + i by omega]
        intro h; omega

/-- The length block: zeros but for its last two words, the low and the high half of the bit length (R128). -/
theorem lengthBlock_words (v : BitVec 64) :
    (∀ k : Fin 16, k.val < 14 → (lengthBlock v)[k] = 0#32) ∧
    (lengthBlock v)[14] = v.extractLsb' 0 32 ∧ (lengthBlock v)[15] = v.extractLsb' 32 32 := by
  refine ⟨fun k hk => ?_, le32_of_fields v 0, le32_of_fields v 32⟩
  obtain ⟨k, hk'⟩ := k
  interval_cases k <;> (show le32 0 0 0 0 = 0#32; decide)

end Sys2Proof.Machine
end

