-- ==== Sys2Proof/Tests/Slice0.lean ====
section
/-! SUPPORT. The model's own tests. Expected values come from spec/95_test_vectors.md (named V-.., S.., P..) and from the
worked examples of the rules; after them, one theorem per obligation with hypotheses shows states and operands that
meet all of them together. -/

namespace Sys2Proof.Tests

open Sys2Proof.Machine

/-! ## Small states -/

/-- The next state of an outcome, the state after reset where there is none. -/
def nextOr (o : Host.Outcome State Fault Refusal) : State :=
  match o with
  | .next s => s
  | .fault _ => State.reset
  | .refused _ => State.reset

/-- The stream alpha(L) of 95_test_vectors.md. -/
def alpha (L : Nat) : List Byte := (List.range L).map fun i => BitVec.ofNat 8 (0x61 + i % 26)

/-- Reset, with a stream behind the Byte Source. -/
def withStream (bytes : List Byte) : State := { State.reset with source := ⟨[], bytes⟩ }

/-- Reset, with one answer of the Byte Source before the stream "abc". -/
def withAnswer (a : FillAnswer) : State := { State.reset with source := ⟨[a], alpha 3⟩ }

/-- A state with a command pending. -/
def pending (i : Instr) (s : State) : State := s.withCore (s.core.issue i)

/-- A state whose host has one statement to do, and the next turn. -/
def hosting (i : HostInstr) (s : State) : State := { s with host := ⟨[i], 0, []⟩, sched := [.host] }

/-- A state with a turn prescribed. -/
def turn (t : Turn) (s : State) : State := { s with sched := [t] }

/-- DO, then the next state. -/
def did (i : Instr) (s : State) : State := nextOr (doCommand i s)

/-- After NEXT_BLOCK on "abc": a block waits in BLK. -/
def holding : State := did .nextBlock (withStream (alpha 3))

/-- After NEXT_BLOCK on alpha(56): EmittingPadding, and a block waits. -/
def spilled : State := did .nextBlock (withStream (alpha 56))

/-- Done, with every block compressed as far as BLK_VALID says (the digest state is not the point). -/
def drained : State := { State.reset with core := { CoreState.reset with pstate := .done } }

/-- Finalized. -/
def finalized : State := { State.reset with core := { CoreState.reset with pstate := .done, final := true } }

/-- Left by a failed read: STATUS = 0x00000740 (R105). -/
def failed : State := did .nextBlock (withAnswer .error)

/-! ## Decoding: words written out from R80 and R82 -/

theorem test_decode_init : decode 0b00000000000000000000000000000001#32 = .command .init := by decide

theorem test_decode_nextBlock : decode 0b00000000000000000000000000000010#32 = .command .nextBlock := by decide

theorem test_decode_processBlock : decode 0b00000000000000000000000000000011#32 = .command .processBlock := by decide

theorem test_decode_finalize : decode 0b00000000000000000000000000000100#32 = .command .finalize := by decide

/-- R83: OP = 0x00, the first and the last OP with no command, and RSV's lowest and highest bit above a command. -/
theorem test_decode_illegal :
    decode 0x00000000#32 = .illegal .zeroOpcode ∧ decode 0x00000005#32 = .illegal .unassignedOpcode ∧
    decode 0x000000FF#32 = .illegal .unassignedOpcode ∧ decode 0x00000102#32 = .illegal .reservedBits ∧
    decode 0x80000001#32 = .illegal .reservedBits := by decide

/-- A command is one whole 32-bit word: fewer or more bits name none (R80). -/
theorem test_decodeTableWord : decodeTableWord 32 3 = some .processBlock ∧ decodeTableWord 8 4 = none ∧
    decodeTableWord 64 1 = none := by decide

/-! ## WellFormed refuses ill-formed terms -/

theorem test_wordWf_refuses_reserved_bits : wordWf 0x00000102#32 = false := by decide

theorem test_wordWf_refuses_zero_opcode : wordWf 0x00000000#32 = false := by decide

theorem test_wordWf_refuses_unassigned_opcode : wordWf 0x00000005#32 = false := by decide

theorem test_wordWf_accepts_the_commands :
    wordWf 0x00000001#32 = true ∧ wordWf 0x00000004#32 = true := by decide

theorem test_programWf_refuses_an_undefined_label : programWf [.label 1, .j 2] = false := by decide

theorem test_programWf_refuses_a_label_defined_twice : programWf [.label 1, .bt .t 0 1, .label 1] = false := by decide

theorem test_programWf_accepts_hash : programWf (.label 9 :: pseudoHash 0 9) = true := by decide

/-! ## INIT (R105) -/

/-- The worked example of R105: from STATUS 0x00000740, INIT gives STATUS 0, H_A = 0x67452301 and LEN = 0. -/
theorem test_init_clears_a_fault : failed.core.status = 0x00000740#32 ∧
    (did .init failed).core.status = 0x00000000#32 ∧ (did .init failed).core.hA = 0x67452301#32 ∧
    (did .init failed).core.len = 0 := by decide +kernel

/-- R105: INIT leaves the Byte Source where it is. -/
theorem test_init_asks_no_source : (did .init holding).core.blkValid = false ∧
    (did .init (withStream (alpha 3))).source.stream = alpha 3 := by decide +kernel

/-! ## NEXT_BLOCK (R121) -/

/-- The worked example of R121. -/
theorem test_nextBlock_abc : holding.core.blk[0] = 0x80636261#32 ∧ holding.core.blk[13] = 0x00000000#32 ∧
    holding.core.blk[14] = 0x00000018#32 ∧ holding.core.len = 3 ∧ holding.core.pstate = .done ∧
    holding.core.status = 0x00000012#32 := by decide +kernel

/-- V-L4: a final fill of 63 bytes at LEN = 0xFFFFFFFFFFFFFFC0 spills, and the length field wraps. -/
theorem test_nextBlock_spill_length_wraps :
    (did .nextBlock { withStream (alpha 63) with
      core := { CoreState.reset with len := 0xFFFFFFFFFFFFFFC0#64 } }).core.padbuf[14] = 0xfffffff8#32 := by
  decide +kernel

/-! ## PROCESS_BLOCK (R164) -/

/-- The worked example of R164: the block of the empty stream. -/
theorem test_processBlock_empty_stream :
    (did .processBlock (did .nextBlock (withStream []))).core.digestState =
      ⟨0xd98c1dd4#32, 0x04b2008f#32, 0x980980e9#32, 0x7e42f8ec#32⟩ := by decide +kernel

/-- V-C3: sixteen words of ones, from the initial state. -/
theorem test_processBlock_all_ones :
    (nextOr (exec .processBlock { State.reset with
      core := { CoreState.reset with blk := Vector.replicate 16 0xffffffff#32 } })).core.digestState =
      ⟨0x561987b4#32, 0x493e9151#32, 0xbdc6554b#32, 0x015c40df#32⟩ := by decide +kernel

/-! ## FINALIZE (R165) -/

/-- The worked example of R165: STATUS = 0x00000030. -/
theorem test_finalize_status : (did .finalize drained).core.status = 0x00000030#32 := by decide

/-- V-F12: FINALIZE in EmittingPadding with a block waiting is FINALIZE_EARLY. -/
theorem test_finalize_early : (did .finalize spilled).core.status = 0x0000054a#32 := by decide +kernel

/-! ## The primitives, the host and the bus -/

/-- V-W3, V-W6, V-W8, V-W13, V-W15, V-W16. -/
theorem test_word_primitives :
    roundF 0xf0f0f0f0 0xffffffff 0x00000000 = 0xf0f0f0f0 ∧ roundG 0xaaaaaaaa 0x55555555 0xf0f0f0f0 = 0xa5a5a5a5 ∧
    roundH 0x12345678 0x9abcdef0 0x00000000 = 0x88888888 ∧ roundI 0x0f0f0f0f 0x33333333 0x55555555 = 0x9c9c9c9c ∧
    rotl32 0x12345678 4 = 0x23456781 ∧ rotl32 0x12345678 31 = 0x091a2b3c := by decide

/-- V-S1 and V-S4: one step of the first and of the last round. -/
theorem test_ladder_steps :
    ladderStep 0 ⟨0xffffffff, 0xffffffff, 0xffffffff, 0xffffffff⟩ (Vector.replicate 16 0xffffffff#32) =
      ⟨0xffffffff, 0xb5523aea, 0xffffffff, 0xffffffff⟩ ∧
    ladderStep 63 ⟨0, 0, 0, 0⟩ (Vector.replicate 16 0#32) = ⟨0, 0x721d70da, 0, 0⟩ := by decide +kernel

/-- V-F3, V-F1 and V-F10: faults at the CMD write, and a pending NEXT_BLOCK that still completes. -/
theorem test_faults_at_the_write :
    (did .nextBlock holding).core.status = 0x00000252#32 ∧
    (did .processBlock State.reset).core.status = 0x00000340#32 ∧
    (did .processBlock (pending .nextBlock (withStream (alpha 3)))).core.status = 0x00000652#32 := by decide +kernel

/-- V-F5, V-F6: an illegal word at the CMD write. -/
theorem test_illegal_words_fault :
    (cmdWrite 0x00000000#32 CoreState.reset).status = 0x00000140#32 ∧
    (cmdWrite 0x00000102#32 CoreState.reset).status = 0x00000140#32 := by decide

/-- V-B1 to V-B7: the offsets at the edges of the register map. -/
theorem test_bus_errors :
    busRead 0x01 State.reset = none ∧ busRead 0x20 State.reset = none ∧ busRead 0x3C State.reset = none ∧
    busRead 0x80 State.reset = none ∧ busRead 0x7C State.reset = some (0, State.reset) ∧
    busWrite 0x04 0x00000001#32 State.reset = none ∧ busWrite 0x40 0x00000001#32 State.reset = none := by decide

/-- The first step after reset runs the word placed: INIT, NEXT_BLOCK on the empty stream, PROCESS_BLOCK on the zero
block (V-C1), FINALIZE; a word that names no command faults when it is written (V-F5). -/
theorem test_step_runs_the_placed_word :
    (nextOr (step (State.reset.withFetchWord 32 1))).core = CoreState.reset ∧
    (nextOr (step (State.reset.withFetchWord 32 2))).core.status = 0x00000012#32 ∧
    (nextOr (step (State.reset.withFetchWord 32 3))).core.digestState =
      ⟨0x031f1dac#32, 0x6ea58ed0#32, 0x1fab67b7#32, 0x74317791#32⟩ ∧
    (nextOr (step (State.reset.withFetchWord 32 4))).core.status = 0x00000020#32 ∧
    (nextOr (step (State.reset.withFetchWord 32 0))).core.status = 0x00000140#32 := by decide +kernel

/-- R53, R80: a word of another length than 32 bits is no command write; the access is a BusError. -/
theorem test_step_of_a_longer_word_is_a_bus_error :
    step (State.reset.withFetchWord 64 1) = .fault .busError ∧
    step (State.reset.withFetchWord 8 1) = .fault .busError := ⟨rfl, rfl⟩

/-! ## Witnesses: the hypotheses of each obligation, met together -/

theorem test_witness_EveryOtherWordIsIllegal :
    opField 0x00000000#32 = 0 ∧ 5 ≤ (opField 0x00000005#32).toNat ∧ 5 ≤ (opField 0x000000FF#32).toNat ∧
    rsvField 0x00000101#32 ≠ 0 ∧ rsvField 0x80000004#32 ≠ 0 := by decide

theorem test_witness_StepCompletesThePendingCommand :
    ∃ (s : State) (i : Instr), s.core.busy = true ∧ s.core.pending = some i ∧ s.sched = [] :=
  ⟨pending .init State.reset, .init, rfl, rfl, rfl⟩

theorem test_witness_StepCompletesThePendingCommand_prescribed :
    ∃ (s : State) (i : Instr), s.core.busy = true ∧ s.core.pending = some i ∧ ∃ rest, s.sched = .core :: rest :=
  ⟨turn .core (pending .finalize finalized), .finalize, rfl, rfl, [], rfl⟩

theorem test_witness_StepRunsTheFetchedWord :
    (2 : Nat) < 2 ^ 32 ∧ decode (BitVec.ofNat 32 2) = .command .nextBlock := by decide

theorem test_witness_HostCommandThenCoreTurnIsDoCommand :
    ∃ (s : State) (i : Instr) (rest : List Turn), s.sched = .host :: .core :: rest ∧
      s.host.program[s.host.pc]? = some (.command i) :=
  ⟨{ withStream (alpha 3) with host := ⟨[.command .nextBlock], 0, []⟩, sched := [.host, .core] }, .nextBlock, [],
    rfl, rfl⟩

theorem test_witness_CommandIsIssuedExactlyWhenAccepted :
    CoreState.reset.busy = false ∧ (cmdWrite (encode .nextBlock) CoreState.reset).busy = true ∧
    (cmdWrite (encode .processBlock) holding.core).busy = true ∧
    (cmdWrite (encode .finalize) drained.core).busy = true ∧
    failed.core.fault = true ∧ (cmdWrite (encode .init) failed.core).busy = true := by decide +kernel

theorem test_witness_WriteWhileBusyRaisesCmdWhileBusy :
    (pending .nextBlock State.reset).core.busy = true ∧ (pending .nextBlock State.reset).core.fault = false := by decide

/-- Both cases of R102: with BUSY = 1, and with BUSY = 0 and a word other than INIT's. -/
theorem test_witness_DiscardedWriteChangesNothing :
    failed.core.fault = true ∧ failed.core.busy = false ∧ (0x00000002#32 : Word) ≠ 0x00000001#32 ∧
    (pending .init failed).core.fault = true ∧ (pending .init failed).core.busy = true := by decide +kernel

theorem test_witness_IllegalWordRaisesIllegalCmd :
    State.reset.core.busy = false ∧ State.reset.core.fault = false ∧
    (∀ i, (0x00000000#32 : Word) ≠ encode i) ∧ (∀ i, (0x00000005#32 : Word) ≠ encode i) ∧
    (∀ i, (0x00000101#32 : Word) ≠ encode i) := by
  refine ⟨rfl, rfl, ?_, ?_, ?_⟩ <;> intro i <;> cases i <;> decide

/-- A state for each clause: FCODE 2 and 5 with a block waiting, 3 from reset, 4 once finalized, 5 in Reading. -/
theorem test_witness_OutOfOrderCommandsRaiseTheirFaults :
    (holding.core.busy = false ∧ holding.core.fault = false ∧ holding.core.blkValid = true) ∧
    (State.reset.core.busy = false ∧ State.reset.core.fault = false ∧ State.reset.core.final = false ∧
      State.reset.core.blkValid = false ∧ State.reset.core.pstate ≠ .done) ∧
    (finalized.core.busy = false ∧ finalized.core.fault = false ∧ finalized.core.final = true) := by decide +kernel

/-- Offsets where the clauses meet: the last mapped one below the hole, the hole's ends, and the window's end. -/
theorem test_witness_BusErrorExactlyOffTheRegisterMap :
    ¬(0x1C % 4 ≠ 0 ∨ (0x20 ≤ 0x1C ∧ 0x1C < 0x40) ∨ 0x80 ≤ 0x1C) ∧ (0x20 ≤ 0x20 ∧ 0x20 < 0x40) ∧
    (0x20 ≤ 0x3C ∧ 0x3C < 0x40) ∧ ¬(0x40 % 4 ≠ 0 ∨ (0x20 ≤ 0x40 ∧ 0x40 < 0x40) ∨ 0x80 ≤ 0x40) ∧
    ¬(0x7C % 4 ≠ 0 ∨ (0x20 ≤ 0x7C ∧ 0x7C < 0x40) ∨ 0x80 ≤ 0x7C) ∧ 0x7D % 4 ≠ 0 ∧ 0x80 ≤ 0x80 := by decide

/-- One access of each kind: a halfword, the address past the window, and the window's first and last bytes. -/
theorem test_witness_AccessByAddressReachesItsOffset :
    (⟨Config.base 0, .half, .write 0x00000001#32⟩ : BusAccess).width ≠ .word ∧
    Config.base 0 + 0x80 ≤ Config.base State.reset.place + 0x80 ∧ 0x00 < 0x80 ∧ 0x7F < 0x80 :=
  ⟨by decide, Nat.le_refl _, by decide, by decide⟩

theorem test_witness_IdleReadsGiveEachRegister : holding.core.busy = false := by decide +kernel

/-- The ends of both ranges of registers, and the STATUS offset that is in neither. -/
theorem test_witness_BusyReadsDrawAFreeValue :
    (pending .processBlock State.reset).core.busy = true ∧
    (∀ off ∈ [0x08, 0x1C, 0x40, 0x7C], off % 4 = 0 ∧ (8 ≤ off ∧ off < 0x20 ∨ 0x40 ≤ off ∧ off < 0x80)) ∧
    ¬(8 ≤ 0x04 ∧ 0x04 < 0x20 ∨ 0x40 ≤ 0x04 ∧ 0x04 < 0x80) := by decide

theorem test_witness_ReadsHaveNoSideEffectAndRepeat :
    busRead 0x10 State.reset = some (0x67452301#32, State.reset) ∧ State.reset.core.busy = false ∧
    busRead 0x04 (pending .init State.reset) = some (0x00000001#32, pending .init State.reset) := by decide

theorem test_witness_IdleLengthPairIsConsistent :
    holding.core.busy = false ∧ busRead 0x08 holding = some (0x00000003#32, holding) ∧
    busRead 0x0C holding = some (0x00000000#32, holding) := by decide +kernel

/-- The smallest and the largest amount, at the first and the last bit. -/
theorem test_witness_RotateLeftIsCircular :
    (∀ s ∈ [1, 31], 1 ≤ s ∧ s ≤ 31) ∧ (∀ i ∈ [0, 31], i < 32) := by decide

theorem test_witness_WordsAreTheGroupsInBufferOrder : (alpha 64).length = 64 := by decide

theorem test_witness_RoundFunctionsSelectBitByBit : ∀ i ∈ [0, 31], i < 32 := by decide

/-- The first and the last step of each round fall under one clause each. -/
theorem test_witness_ScheduleIsTheTable :
    0 < 16 ∧ 15 < 16 ∧ (16 ≤ 16 ∧ 16 < 32) ∧ (16 ≤ 31 ∧ 31 < 32) ∧ (32 ≤ 32 ∧ 32 < 48) ∧ (32 ≤ 47 ∧ 47 < 48) ∧
    (48 ≤ 48 ∧ 48 < 64) ∧ (48 ≤ 63 ∧ 63 < 64) := by decide

/-- One state without an earlier fault and one with. -/
theorem test_witness_NextBlockReadFailure :
    ∃ (s s' : State) (src : ByteSource), (s.core.pstate = .reading ∧ s.source.fill = (.error, src) ∧
      s.core.fault = false) ∧ (s'.core.pstate = .reading ∧ s'.source.fill = (.error, src) ∧ s'.core.fault = true) :=
  ⟨withAnswer .error, { withAnswer .error with core := { CoreState.reset with fault := true, fcode := 0x6#4 } },
    ⟨[], alpha 3⟩, ⟨rfl, rfl, rfl⟩, ⟨rfl, rfl, rfl⟩⟩

theorem test_witness_NextBlockFullBlock :
    ∃ (s : State) (bytes : List Byte) (h : bytes.length ≤ 64) (src : ByteSource), s.core.pstate = .reading ∧
      s.source.fill = (.data bytes h, src) ∧ bytes.length = 64 :=
  ⟨withAnswer (.data (alpha 64) (by decide)), alpha 64, by decide, ⟨[], alpha 3⟩, rfl, rfl, by decide⟩

/-- Both ends of R126's range: no byte, and 55 bytes. -/
theorem test_witness_NextBlockPaddingFits : ∀ n ∈ [0, 55], ∃ (s : State) (bytes : List Byte)
    (h : bytes.length ≤ 64) (src : ByteSource), s.core.pstate = .reading ∧ s.source.fill = (.data bytes h, src) ∧
      bytes.length = n ∧ bytes.length ≤ 55 := by
  intro n hn
  simp only [List.mem_cons, List.not_mem_nil, or_false] at hn
  rcases hn with rfl | rfl
  · exact ⟨withAnswer (.data [] (by decide)), [], by decide, ⟨[], alpha 3⟩, rfl, rfl, rfl, by decide⟩
  · exact ⟨withAnswer (.data (alpha 55) (by decide)), alpha 55, by decide, ⟨[], alpha 3⟩, rfl, rfl, by decide, by decide⟩

/-- Both ends of R128's range: 56 and 63 bytes. -/
theorem test_witness_NextBlockPaddingSpills : ∀ n ∈ [56, 63], ∃ (s : State) (bytes : List Byte)
    (h : bytes.length ≤ 64) (src : ByteSource), s.core.pstate = .reading ∧ s.source.fill = (.data bytes h, src) ∧
      bytes.length = n ∧ 56 ≤ bytes.length ∧ bytes.length ≤ 63 := by
  intro n hn
  simp only [List.mem_cons, List.not_mem_nil, or_false] at hn
  rcases hn with rfl | rfl
  · exact ⟨withAnswer (.data (alpha 56) (by decide)), alpha 56, by decide, ⟨[], alpha 3⟩, rfl, rfl, by decide, by decide,
      by decide⟩
  · exact ⟨withAnswer (.data (alpha 63) (by decide)), alpha 63, by decide, ⟨[], alpha 3⟩, rfl, rfl, by decide, by decide,
      by decide⟩

theorem test_witness_NextBlockEmitsTheBufferedBlock : spilled.core.pstate = .emittingPadding := by decide +kernel

theorem test_witness_NextBlockReportsExhaustion : drained.core.pstate = .done := by decide

theorem test_witness_ProcessBlockAddsTheCompressionBack : ∃ (s : State) (w : Quad),
    compress ⟨s.core.hA, s.core.hB, s.core.hC, s.core.hD⟩ s.core.blk = w := ⟨holding, _, rfl⟩

theorem test_witness_FinalizeIsIdempotent :
    drained.core.busy = false ∧ drained.core.fault = false ∧ drained.core.pstate = .done ∧
    drained.core.blkValid = false := by decide

/-- With a fill outstanding, and with none. -/
theorem test_witness_ResetFromAnyState :
    ((turn .reset (pending .nextBlock State.reset)).sched = [.reset] ∧
      (pending .nextBlock State.reset).core.busy = true) ∧
    ((turn .reset holding).sched = [.reset] ∧ ¬(holding.core.busy = true ∧ holding.core.pending = some .nextBlock ∧
      holding.core.pstate = .reading)) := by decide +kernel

/-- A step of PROCESS_BLOCK, and one of INIT from another digest state. -/
theorem test_witness_DigestStateChangesOnlyByProcessInitOrReset :
    (∃ s t : State, step s = .next t ∧ t.core.digestState ≠ s.core.digestState ∧ s.core.pending = some .processBlock) ∧
    (∃ s t : State, step s = .next t ∧ t.core.digestState ≠ s.core.digestState ∧ s.core.pending = some .init) :=
  ⟨⟨pending .processBlock holding, _, rfl, by decide +kernel, by decide +kernel⟩,
   ⟨pending .init { State.reset with core := { CoreState.reset with hA := 0 } }, _, rfl, by decide, by decide⟩⟩

theorem test_witness_RunningLengthCountsOnlyBytesRead :
    ∃ s t : State, step s = .next t ∧ t.core.len ≠ s.core.len :=
  ⟨pending .nextBlock (withStream (alpha 3)), _, rfl, by decide +kernel⟩

theorem test_witness_ProducerOnlyMovesForward :
    (∃ s t : State, step s = .next t ∧ t.core.pstate ≠ s.core.pstate ∧ t.core.pstate = .done) ∧
    (∃ s t : State, step s = .next t ∧ t.core.pstate ≠ s.core.pstate ∧ t.core.pstate = .reading) :=
  ⟨⟨pending .nextBlock (withStream (alpha 3)), _, rfl, by decide +kernel, by decide +kernel⟩,
   ⟨turn .reset drained, _, rfl, by decide, by decide⟩⟩

theorem test_witness_SourceIsAskedOnlyByNextBlockInReading :
    (∃ s t : State, step s = .next t ∧ t.source ≠ s.source ∧ s.core.pending = some .nextBlock) ∧
    (∃ s t : State, step s = .next t ∧ t.source ≠ s.source ∧ s.sched = [.host]) :=
  ⟨⟨pending .nextBlock (withStream (alpha 3)), _, rfl, by decide +kernel, by decide⟩,
   ⟨hosting (.src (alpha 1)) State.reset, _, rfl, by decide, by decide⟩⟩

/-- A fault that stays over a CMD write, and one that INIT clears. -/
theorem test_witness_FaultIsStickyUntilInitOrReset :
    (∃ s t : State, s.core.fault = true ∧ step s = .next t ∧ t.core.fault = true) ∧
    (∃ s t : State, s.core.fault = true ∧ step s = .next t ∧ t.core.fault = false) :=
  ⟨⟨hosting (.command .nextBlock) { State.reset with core := { CoreState.reset with fault := true, fcode := 0x7#4 } }, _,
      rfl, rfl, by decide⟩,
   ⟨pending .init { State.reset with core := { CoreState.reset with fault := true, fcode := 0x7#4 } }, _, rfl, rfl,
      by decide⟩⟩

/-- A fault raised at a CMD write, and one raised at a completion. -/
theorem test_witness_FaultEntryIsPrecise :
    (∃ s t : State, s.core.fault = false ∧ step s = .next t ∧ t.core.fault = true ∧ s.sched = [.host]) ∧
    (∃ s t : State, s.core.fault = false ∧ step s = .next t ∧ t.core.fault = true ∧ s.core.busy = true) :=
  ⟨⟨hosting (.command .finalize) State.reset, _, rfl, rfl, by decide, rfl⟩,
   ⟨pending .nextBlock (withAnswer .error), _, rfl, rfl, by decide, rfl⟩⟩

/-- A command that is discarded, and INIT, which is accepted. -/
theorem test_witness_FaultedComputationIsAbandoned :
    ∀ i ∈ [Instr.nextBlock, Instr.init], ∃ s t : State, s.core.fault = true ∧ s.core.busy = false ∧
      step s = .next t ∧ (nextTurn s).1 ≠ .reset ∧ s.host.program = [.command i] := by
  intro i _
  exact ⟨hosting (.command i) { State.reset with core := { CoreState.reset with fault := true, fcode := 0x7#4 } }, _,
    rfl, rfl, rfl, by simp [nextTurn, hosting], rfl⟩

/-- One host turn, a refused CMD write, while NEXT_BLOCK is pending. -/
theorem test_witness_PendingCommandSurvivesHostTurns :
    ∃ (n : Nat) (s t : State) (i : Instr) (rest : List Turn), s.core.busy = true ∧ s.core.pending = some i ∧
      s.sched = List.replicate n .host ++ .core :: rest ∧ Host.Core.run Sys2Proof.core n s = .next t ∧
      t.core.fault = true :=
  ⟨1, { pending .nextBlock State.reset with host := ⟨[.command .processBlock], 0, []⟩, sched := [.host, .core] }, _,
    .nextBlock, [], rfl, rfl, rfl, rfl, by decide⟩

/-- The invariant, the block and a step together: PROCESS_BLOCK pending on a waiting block. -/
theorem reset_core_inv_with_block (b : Block) (p : Option Instr) (busy : Bool)
    (hp : p = none ∧ busy = false ∨ p = some .processBlock ∧ busy = true) :
    { CoreState.reset with blk := b, blkValid := true, pending := p, busy := busy }.Inv := by
  rcases hp with ⟨rfl, rfl⟩ | ⟨rfl, rfl⟩ <;>
    exact ⟨⟨by simp [CoreState.reset, PState.bits], by simp, by simp [CoreState.reset], by simp [CoreState.reset],
      by simp [CoreState.reset], by simp [CoreState.reset], by simp [CoreState.reset]⟩,
      by intro i hi; cases hi <;> rfl⟩

theorem test_witness_ReturnedBlockIsKeptUntilCompressed :
    ∃ s t : State, s.Inv ∧ s.core.blkValid = true ∧ step s = .next t ∧ s.core.pending = some .processBlock :=
  ⟨{ State.reset with core :=
      { CoreState.reset with blkValid := true, pending := some .processBlock, busy := true } }, _,
    ⟨reset_core_inv_with_block _ _ _ (.inr ⟨rfl, rfl⟩), rfl⟩, rfl, rfl, rfl⟩

/-- The invariant in Done, with a command pending or none. -/
theorem done_core_inv (f : Bool) (p : Option Instr) (busy : Bool)
    (hp : p = none ∧ busy = false ∨ p = some .finalize ∧ busy = true ∨ p = some .init ∧ busy = true) :
    { CoreState.reset with pstate := .done, final := f, pending := p, busy := busy }.Inv := by
  rcases hp with ⟨rfl, rfl⟩ | ⟨rfl, rfl⟩ | ⟨rfl, rfl⟩ <;>
    exact ⟨⟨by simp [PState.bits], by simp, by simp [CoreState.reset], by simp [CoreState.reset],
      by simp [CoreState.reset], by simp [CoreState.reset], by simp [CoreState.reset]⟩,
      by intro i hi; cases hi <;> rfl⟩

/-- One step for each clause: FINALIZE sets FINAL, a second FINALIZE keeps it, INIT clears it. -/
theorem test_witness_EngineLifecycle :
    (∃ s t : State, s.Inv ∧ step s = .next t ∧ s.core.final = false ∧ t.core.final = true) ∧
    (∃ s t : State, s.Inv ∧ step s = .next t ∧ s.core.final = true ∧ t.core.final = true) ∧
    (∃ s t : State, s.Inv ∧ step s = .next t ∧ s.core.final = true ∧ t.core.final = false) :=
  ⟨⟨pending .finalize drained, _, ⟨done_core_inv false _ _ (.inr (.inl ⟨rfl, rfl⟩)), rfl⟩, rfl, rfl, rfl⟩,
   ⟨pending .finalize finalized, _, ⟨done_core_inv true _ _ (.inr (.inl ⟨rfl, rfl⟩)), rfl⟩, rfl, rfl, rfl⟩,
   ⟨pending .init finalized, _, ⟨done_core_inv true _ _ (.inr (.inr ⟨rfl, rfl⟩)), rfl⟩, rfl, rfl, rfl⟩⟩

/-- A program position for each clause; `at` of a one-statement program is its statement. -/
theorem test_witness_HostStatementsDoTheirWork :
    (hosting (.wr 0x00 0) State.reset).host.program[0]? = some (.wr 0x00 0) ∧
    (hosting (.wr 0x04 0) State.reset).host.program[0]? = some (.wr 0x04 0) ∧
    (∃ w t, busRead 0x7C (hosting (.rd .t 0x7C) State.reset) = some (w, t)) ∧
    busRead 0x20 (hosting (.rd .t 0x20) State.reset) = none ∧
    labelTarget [.label 3, .bt .t 0 3] 3 = some 0 ∧ labelTarget [.bf .t 31 3, .label 3] 3 = some 1 ∧
    labelTarget [.j 3, .label 3] 3 = some 1 ∧ labelTarget [.j 3] 3 = none ∧
    labelTarget [.bt .t 0 3] 3 = none ∧ labelTarget [.label 3, .bf .t 0 3, .label 3] 3 = none ∧
    (hosting (.access ⟨0x80, .byte, .write 0⟩) State.reset).host.program[0]? =
      some (.access ⟨0x80, .byte, .write 0⟩) ∧
    (hosting (.label 3) State.reset).host.program[0]? = some (.label 3) ∧
    (hosting (.src []) State.reset).host.program[0]? = some (.src []) :=
  ⟨rfl, rfl, ⟨_, _, rfl⟩, by decide, by decide, by decide, by decide, by decide, by decide, by decide, rfl, rfl, rfl⟩

theorem test_witness_HostVariablesHoldWhatWasWritten :
    varsWf [(0, 0x00000001#32), (3, 0x80000000#32)] = true ∧ HostVar.v 0 ≠ HostVar.t := by decide

/-- Every clause: instance 0 of two steps, in systems that agree only there. -/
theorem test_witness_InstancesShareNoState :
    (∃ s t, ([State.reset, drained] : List State)[0]? = some s ∧ step s = .next t) ∧
    (∃ sys', stepInstance 0 [State.reset, drained] = .next sys' ∧ (1 : Nat) ≠ 0) ∧
    ([State.reset, drained] : List State)[0]? = ([State.reset, finalized] : List State)[0]? :=
  ⟨⟨_, _, rfl, rfl⟩, ⟨_, rfl, by decide⟩, rfl⟩

theorem test_witness_EveryStepKeepsTheInvariant :
    ∃ s t : State, s.Inv ∧ step s = .next t ∧ t ≠ s :=
  ⟨pending .finalize drained, _, ⟨done_core_inv false _ _ (.inr (.inl ⟨rfl, rfl⟩)), rfl⟩, rfl, by decide⟩

theorem test_witness_ReachableStatesSatisfyTheInvariants :
    ∃ (k : Nat) (s t : State), s.core = CoreState.reset ∧ varsWf s.host.vars = true ∧
      Host.Core.run Sys2Proof.core k s = .next t ∧ t.core ≠ s.core :=
  ⟨2, { withStream (alpha 3) with host := ⟨[.command .nextBlock], 0, []⟩ }, _, rfl, rfl, rfl, by decide +kernel⟩

/-- A full answer before more bytes, and a short answer that is the last. -/
theorem test_witness_FillsDeliverTheStreamInOrder :
    (∃ (src src' : ByteSource) (bytes : List Byte) (h : bytes.length ≤ 64), src.fill = (.data bytes h, src') ∧
      keepsContract src.answers src.stream ∧ bytes.length = 64) ∧
    (∃ (src src' : ByteSource) (bytes : List Byte) (h : bytes.length ≤ 64), src.fill = (.data bytes h, src') ∧
      keepsContract src.answers src.stream ∧ bytes.length < 64) :=
  ⟨⟨⟨[.data (alpha 64) (by decide)], alpha 3⟩, ⟨[], alpha 3⟩, alpha 64, by decide, rfl,
      ⟨fun h => absurd h (by decide), trivial⟩, by decide⟩,
   ⟨⟨[], alpha 3⟩, ⟨[], []⟩, alpha 3, by decide, rfl, trivial, by decide⟩⟩

/-- A full block, a fitting final block of a whole number of blocks, and a spilling one at 56 and 63 bytes. -/
theorem test_witness_ReadingReturnsTheBlocksOfThePaddedStream :
    ∀ m ∈ [alpha 64, alpha 56, alpha 63, alpha 55], ∃ (s : State) (q : Nat), s.core.pstate = .reading ∧
      64 * q ≤ m.length ∧ s.core.len = BitVec.ofNat 64 (64 * q) ∧ s.source.answers = [] ∧
      s.source.stream = m.drop (64 * q) :=
  fun m _ => ⟨withStream m, 0, rfl, Nat.zero_le _, rfl, rfl, rfl⟩

theorem test_witness_ReadingReturnsTheBlocksOfThePaddedStream_last :
    ∃ s : State, s.core.pstate = .reading ∧ 64 * 1 ≤ (alpha 64).length ∧ (alpha 64).length < 64 * (1 + 1) ∧
      s.core.len = BitVec.ofNat 64 (64 * 1) ∧ s.source.answers = [] ∧ s.source.stream = (alpha 64).drop (64 * 1) :=
  ⟨{ withStream [] with core := { CoreState.reset with len := 64 } }, rfl, by decide, by decide, rfl, rfl, by decide⟩

/-- A source that keeps the contract with a prepared full answer before its stream. -/
theorem test_witness_HashCommandsComputeTheDigest :
    ∃ s : State, s.core.busy = false ∧ keepsContract s.source.answers s.source.stream ∧
      deliveredBytes s.source.answers s.source.stream = alpha 64 ++ alpha 3 :=
  ⟨withAnswer (.data (alpha 64) (by decide)), rfl, ⟨fun h => absurd h (by decide), trivial⟩, rfl⟩

/-- The whole sequence of R237 on "abc", FINALIZE among it. -/
theorem test_witness_FaultFreeCommandsFollowTheOrder :
    Instr.init ∉ [Instr.nextBlock, .processBlock, .nextBlock, .finalize, .finalize] ∧
    completedCommands [.nextBlock, .processBlock, .nextBlock, .finalize, .finalize]
      { State.reset with source := ⟨[], alpha 3⟩ } = some [.block, .processed, .exhausted, .finalized, .finalized] := by
  decide +kernel

end Sys2Proof.Tests
end

section
/-! PROOFS. The word primitives: the circular shift and the words of a block buffer (R11, R12, R127). -/

namespace Sys2Proof.Machine

/-- Below the word's width the spec's shift is the library's rotation, which reduces its amount modulo the width. -/
theorem rotl32_eq_rotateLeft (x : Word) {s : Nat} (hs : s < 32) : rotl32 x s = x.rotateLeft s := by
  rw [BitVec.rotateLeft_def, Nat.mod_eq_of_lt hs, rotl32]

/-- Settles O21: bit i comes from the top s bits when it lies below the shift, from s places below otherwise. -/
theorem rotateLeftIsCircular : Obligations.RotateLeftIsCircular := by
  intro x s i _ hs31 hi
  have hs : s < 32 := Nat.lt_succ_of_le hs31
  rw [rotl32_eq_rotateLeft x hs, BitVec.getLsbD_rotateLeft_of_le hs]
  by_cases wrapped : i < s
  · have hsource : (i + (32 - s)) % 32 = 32 - s + i := by omega
    simp [wrapped, hsource]
  · have hsource : (i + (32 - s)) % 32 = i - s := by omega
    simp [wrapped, hi, hsource]

open BitVec in
/-- A little-endian word is its four bytes side by side, the last one on top (R12): the four bytes are the fields of
their concatenation, so `le32_of_fields` puts them together again. -/
theorem le32_eq_append (b0 b1 b2 b3 : Byte) : le32 b0 b1 b2 b3 = (b3 ++ b2 ++ b1 ++ b0 : BitVec 32) := by
  have whole := le32_of_fields (0#32 ++ (b3 ++ b2 ++ b1 ++ b0 : BitVec 32)) 0
  have low (k : Nat) (hk : k + 8 ≤ 32) : (0#32 ++ (b3 ++ b2 ++ b1 ++ b0 : BitVec 32)).extractLsb' k 8 =
      (b3 ++ b2 ++ b1 ++ b0 : BitVec 32).extractLsb' k 8 := extractLsb'_append_eq_of_add_le hk
  have field1 : (b3 ++ b2 ++ b1 ++ b0 : BitVec 32).extractLsb' 8 8 = b1 := by
    rw [extractLsb'_append_eq_of_le (by decide), extractLsb'_append_eq_right]
  have field2 : (b3 ++ b2 ++ b1 ++ b0 : BitVec 32).extractLsb' 16 8 = b2 := by
    rw [extractLsb'_append_eq_of_le (by decide), extractLsb'_append_eq_of_le (by decide), extractLsb'_append_eq_right]
  have field3 : (b3 ++ b2 ++ b1 ++ b0 : BitVec 32).extractLsb' 24 8 = b3 := by
    rw [extractLsb'_append_eq_of_le (by decide), extractLsb'_append_eq_of_le (by decide), extractLsb'_append_eq_left]
  rwa [extractLsb'_append_eq_right, low _ (by decide), low _ (by decide), low _ (by decide), low _ (by decide),
    extractLsb'_append_eq_right, field1, field2, field3] at whole

/-- Settles O22: word i is the little-endian word at group i, whose bytes stand side by side. The buffer's length is
not needed, as a byte past the end reads 0 on both sides. -/
theorem wordsAreTheGroupsInBufferOrder : Obligations.WordsAreTheGroupsInBufferOrder := by
  intro buf _ i
  rw [words16_get, wordAt, le32_eq_append]

end Sys2Proof.Machine
end

section
/-! PROOFS. The register window: what STATUS holds, what each register reads, and the CORE at reset (R32 to R37, R40,
R52). -/

namespace Sys2Proof.Machine

/-! ## Reads -/

/-- A read of a register whose value is exact gives that value and leaves the machine as it is (R52, R57). -/
theorem busRead_of_exact {off : Nat} {s : State} (mapped : mappedOffset off = true)
    (isExact : off = cmdOffset ∨ off = statusOffset ∨ s.core.busy = false) :
    busRead off s = some (s.core.register off, s) := by
  rw [busRead, if_pos mapped, if_pos isExact]

/-- The sixteen words of BLK stand at 0x40 to 0x7C (R37). -/
theorem CoreState.register_block (c : CoreState) (i : Fin 16) : c.register (0x40 + 4 * i.val) = c.blk[i] := by
  have word : (0x40 + 4 * i.val - 0x40) / 4 = i.val := by omega
  unfold CoreState.register
  rw [if_neg (by omega), if_neg (by omega), if_neg (by omega), if_neg (by omega), if_neg (by omega),
    if_neg (by omega), if_neg (by omega), if_neg (by omega), word]
  simp

/-- Every word of BLK has an offset R32 places a register at. -/
theorem mappedOffset_block (i : Fin 16) : mappedOffset (0x40 + 4 * i.val) = true := by
  revert i
  decide

/-- Settles O15: CMD and STATUS are exact whatever BUSY is (R57), and the register at CMD is the constant 0. -/
theorem cmdAndStatusReadExactlyAlways : Obligations.CmdAndStatusReadExactlyAlways :=
  fun _ => ⟨busRead_of_exact rfl (.inl rfl), busRead_of_exact rfl (.inr (.inl rfl))⟩

/-- Settles O14: while BUSY = 0 every mapped offset reads its register exactly. -/
theorem idleReadsGiveEachRegister : Obligations.IdleReadsGiveEachRegister := by
  intro s idle
  have reads {off : Nat} (mapped : mappedOffset off = true) : busRead off s = some (s.core.register off, s) :=
    busRead_of_exact mapped (.inr (.inr idle))
  refine ⟨reads rfl, reads rfl, reads rfl, reads rfl, reads rfl, reads rfl, fun i => ?_⟩
  rw [reads (mappedOffset_block i), CoreState.register_block]

/-- Settles O38: the reset CORE is these values, and every field of its STATUS is 0. -/
theorem resetValues : Obligations.ResetValues := ⟨rfl, rfl⟩

/-! ## STATUS -/

/-- The twelve bits of STATUS that hold fields, from BUSY up to FCODE (R34). -/
theorem CoreState.status_getLsbD (c : CoreState) {i : Nat} (hi : i < 12) :
    c.status.getLsbD i =
      if i < 1 then c.busy else if i < 2 then c.blkValid else if i < 3 then c.exhausted
      else if i < 5 then c.pstate.bits.getLsbD (i - 3) else if i < 6 then c.final else if i < 7 then c.fault
      else if i < 8 then false else c.fcode.getLsbD (i - 8) := by
  simp only [CoreState.status, BitVec.getLsbD_setWidth, BitVec.getLsbD_append, BitVec.getLsbD_ofBool]
  interval_cases i <;> simp

/-- Above FCODE, STATUS is zero-extended (R34). -/
theorem CoreState.status_getLsbD_reserved (c : CoreState) {i : Nat} (hi : 12 ≤ i) : c.status.getLsbD i = false := by
  rw [CoreState.status, BitVec.getLsbD_setWidth, BitVec.getLsbD_of_ge _ _ hi, Bool.and_false]

/-- PSTATE stands in STATUS[4:3] (R24, R34). -/
theorem CoreState.status_pstate (c : CoreState) : c.status.extractLsb' 3 2 = c.pstate.bits := by
  apply BitVec.eq_of_getLsbD_eq
  intro i hi
  rw [BitVec.getLsbD_extractLsb', c.status_getLsbD (by omega)]
  interval_cases i <;> rfl

/-- FCODE stands in STATUS[11:8] (R34). -/
theorem CoreState.status_fcode (c : CoreState) : c.status.extractLsb' 8 4 = c.fcode := by
  apply BitVec.eq_of_getLsbD_eq
  intro i hi
  rw [BitVec.getLsbD_extractLsb', c.status_getLsbD (by omega)]
  interval_cases i <;> rfl

/-- STATUS[31:12] is reserved and reads 0 (R34). -/
theorem CoreState.status_reserved (c : CoreState) : c.status.extractLsb' 12 20 = 0#20 := by
  apply BitVec.eq_of_getLsbD_eq
  intro i _
  rw [BitVec.getLsbD_extractLsb', c.status_getLsbD_reserved (by omega), Bool.and_false, BitVec.getLsbD_zero]

/-- Settles O16: the single bits by `status_getLsbD` at their places, the wider fields by their own lemmas. -/
theorem statusFieldsStandInTheirBits : Obligations.StatusFieldsStandInTheirBits := by
  intro c
  refine ⟨c.status_getLsbD (by decide), c.status_getLsbD (by decide), c.status_getLsbD (by decide), ?_,
    c.status_getLsbD (by decide), c.status_getLsbD (by decide), c.status_getLsbD (by decide),
    c.status_fcode, c.status_reserved⟩
  rw [c.status_pstate]
  cases c.pstate <;> rfl

end Sys2Proof.Machine
end

section
/-! PROOFS. What a step can do to the CORE, and the invariant of R39 with log entries 7 and 13 (R39, R101). -/

namespace Sys2Proof.Machine

/-! ## What a step can do to the CORE -/

/-- The next turn leaves the machine as it is, with at most that turn taken off the schedule. -/
theorem nextTurn_state (s : State) : (nextTurn s).2 = { s with sched := s.sched.tail } := by
  obtain ⟨core, host, source, sched, draws, place⟩ := s
  cases sched <;> rfl

/-- Everything a step can do, said of the machine it starts from: all but the schedule is the machine's own. -/
theorem step_turnEffect {s t : State} (h : step s = .next t) :
    TurnEffect (nextTurn s).1 { s with sched := s.sched.tail } t :=
  nextTurn_state s ▸ step_effect h

/-- Raising a fault writes FAULT and FCODE at most (R201). -/
theorem CoreState.raise_frame (c : CoreState) (f : FaultCode) :
    c.raise f = { c with fault := (c.raise f).fault, fcode := (c.raise f).fcode } := by
  unfold CoreState.raise
  split <;> rfl

/-- A CMD write writes FAULT, FCODE, BUSY and PENDING at most (R100). -/
theorem cmdWrite_frame (v : Word) (c : CoreState) :
    cmdWrite v c = { c with fault := (cmdWrite v c).fault, fcode := (cmdWrite v c).fcode,
                            busy := (cmdWrite v c).busy, pending := (cmdWrite v c).pending } := by
  obtain ⟨-, eq⟩ | ⟨-, f, eq⟩ | ⟨-, i, -, -, -, eq⟩ := cmdWrite_cases v c
  · rw [eq]
  · rw [eq, c.raise_frame f]
  · rw [eq]; rfl

/-- What reads none of FAULT, FCODE, BUSY and PENDING changes only in the completion of a command or in a reset. -/
theorem step_change_cases {α : Type} (f : CoreState → α)
    (reads : ∀ c fault fcode busy pending,
      f { c with fault := fault, fcode := fcode, busy := busy, pending := pending } = f c)
    {s t : State} (h : step s = .next t) (changed : f t.core ≠ f s.core) :
    ((nextTurn s).1 = .core ∧ s.core.busy = true ∧ ∃ i, s.core.pending = some i ∧
      t.core = s.core.completed i s.source.fill.1) ∨
    ((nextTurn s).1 = .reset ∧ t.core = CoreState.reset) := by
  cases step_turnEffect h with
  | host _ _ effect =>
    cases effect with
    | idle core _ => exact absurd (congrArg f core) changed
    | write v core _ =>
      rw [core, cmdWrite_frame] at changed
      exact absurd (reads _ _ _ _ _) changed
    | stream _ _ core _ => exact absurd (congrArg f core) changed
  | completion i turn busy pending eq => exact .inl ⟨turn, busy, i, pending, congrArg State.core eq⟩
  | empty _ _ _ eq =>
    rw [eq] at changed
    exact absurd (reads s.core _ _ _ _) changed
  | idle _ _ eq => exact absurd (congrArg (f ∘ State.core) eq) changed
  | reset turn eq => exact .inr ⟨turn, by rw [eq, hardwareReset_core]⟩

/-! ## The completion of NEXT_BLOCK, by Producer state (R121) -/

theorem CoreState.completed_nextBlock_reading {c : CoreState} (hp : c.pstate = .reading) (ans : FillAnswer) :
    c.completed .nextBlock ans = (c.readStep ans).finish := by
  simp only [CoreState.completed, hp]

theorem CoreState.completed_nextBlock_emittingPadding {c : CoreState} (hp : c.pstate = .emittingPadding)
    (ans : FillAnswer) : c.completed .nextBlock ans = c.emitPadding.finish := by
  simp only [CoreState.completed, hp]

theorem CoreState.completed_nextBlock_done {c : CoreState} (hp : c.pstate = .done) (ans : FillAnswer) :
    c.completed .nextBlock ans = c.reportExhausted.finish := by
  simp only [CoreState.completed, hp]

/-! ## What the rules of R39 ask of each operation -/

/-- No Producer state is encoded 0b11 (R24). -/
theorem PState.bits_legal (p : PState) : p.bits ≠ 0b11#2 := by
  cases p <;> decide

section Rules

variable {c : CoreState} (h : c.Reachable39)
include h

/-- Before Done the engine is not Finalized (R39). -/
theorem CoreState.Reachable39.final_eq_false (hp : c.pstate ≠ .done) : c.final = false :=
  Bool.eq_false_iff.mpr fun hf => hp (h.final_done hf).1

/-- Before Done no exhaustion is reported (R39). -/
theorem CoreState.Reachable39.exhausted_eq_false (hp : c.pstate ≠ .done) : c.exhausted = false :=
  Bool.eq_false_iff.mpr fun he => hp (h.exhausted_done he).1

theorem CoreState.Reachable39.raise (f : FaultCode) : (c.raise f).Reachable39 := by
  cases hf : c.fault with
  | true => rwa [CoreState.raise_of_fault hf]
  | false =>
    rw [CoreState.raise_of_clear hf]
    exact { h with fault_code := ⟨nofun, fun _ => f.code_range⟩ }

theorem CoreState.Reachable39.issue (i : Instr) : (c.issue i).Reachable39 :=
  { h with busy_iff_pending := ⟨nofun, nofun⟩ }

theorem CoreState.Reachable39.finish : c.finish.Reachable39 :=
  { h with busy_iff_pending := ⟨fun _ => rfl, fun _ => rfl⟩ }

/-- Before FINALIZE any block may be returned. -/
theorem CoreState.Reachable39.deliver (hf : c.final = false) (b : Block) : (c.deliver b).Reachable39 :=
  { h with
    final_done := fun hf' => absurd (hf.symm.trans hf') nofun
    exhausted_done := nofun
    valid_not_final := fun _ => hf }

/-- LEN may grow while PADBUF holds no length block. -/
theorem CoreState.Reachable39.count (hp : c.pstate = .reading) (n : Nat) : (c.count n).Reachable39 :=
  { h with padbuf_length := fun he => absurd (hp.symm.trans he) nofun }

theorem CoreState.Reachable39.toDone : { c with pstate := .done }.Reachable39 :=
  { h with
    pstate_legal := PState.bits_legal _
    final_done := fun hf => ⟨rfl, (h.final_done hf).2⟩
    exhausted_done := fun he => ⟨rfl, (h.exhausted_done he).2⟩
    padbuf_length := nofun }

/-- The Producer may leave Reading with the length block of LEN in PADBUF (R128). -/
theorem CoreState.Reachable39.toEmitting (hp : c.pstate = .reading) :
    { c with padbuf := lengthBlock (bitLength c.len), pstate := .emittingPadding }.Reachable39 :=
  have notDone : c.pstate ≠ .done := by simp [hp]
  { h with
    pstate_legal := PState.bits_legal _
    final_done := fun hf => absurd ((h.final_eq_false notDone).symm.trans hf) nofun
    exhausted_done := fun he => absurd ((h.exhausted_eq_false notDone).symm.trans he) nofun
    padbuf_length := fun _ => lengthBlock_words _ }

/-- Whatever the Byte Source answers, a read step keeps the rules of R39. -/
theorem CoreState.Reachable39.readStep (hp : c.pstate = .reading) (ans : FillAnswer) :
    (c.readStep ans).Reachable39 := by
  have hf : c.final = false := h.final_eq_false (by simp [hp])
  obtain ⟨-, eq⟩ | ⟨bytes, -, -, ⟨-, eq⟩ | ⟨-, eq⟩ | ⟨-, -, eq⟩⟩ := c.readStep_cases ans
  · exact eq ▸ h.raise _
  · exact eq ▸ (h.count hp _).deliver hf _
  · exact eq ▸ (h.count hp _).toDone.deliver hf _
  · exact eq ▸ ((h.count hp _).toEmitting hp).deliver hf _

/-- The end of a completion leaves no pending command whose precondition could fail. -/
theorem CoreState.Reachable39.finish_inv : c.finish.Inv := ⟨h.finish, nofun⟩

end Rules

/-! ## The invariant, step by step -/

/-- The CORE at reset meets the invariant (R40). -/
theorem CoreState.reset_inv : CoreState.reset.Inv where
  rules :=
    { pstate_legal := PState.bits_legal _
      busy_iff_pending := by decide
      fault_code := by decide
      final_done := nofun
      exhausted_done := nofun
      padbuf_length := nofun
      valid_not_final := nofun }
  accepted := nofun

/-- A CMD write keeps the invariant: it touches nothing a precondition reads, and what it issues was checked (R101). -/
theorem CoreState.Inv.cmdWrite {c : CoreState} (h : c.Inv) (v : Word) : (cmdWrite v c).Inv := by
  obtain ⟨-, eq⟩ | ⟨-, f, eq⟩ | ⟨-, i, -, -, accepted, eq⟩ := cmdWrite_cases v c
  · rwa [eq]
  · rw [eq]
    refine ⟨h.rules.raise f, fun i pending => ?_⟩
    rw [raise_pending] at pending
    rw [precondition_congr (c.raise_pstate f) (c.raise_blkValid f) (c.raise_final f)]
    exact h.accepted i pending
  · rw [eq]
    refine ⟨h.rules.issue i, fun j pending => ?_⟩
    obtain rfl : i = j := Option.some.inj pending
    exact accepted

/-- The completion of a pending command keeps the invariant, whatever the Byte Source answers: the command's
precondition is what the new state needs. -/
theorem CoreState.Inv.completed {c : CoreState} (h : c.Inv) {i : Instr} (pending : c.pending = some i)
    (ans : FillAnswer) : (c.completed i ans).Inv := by
  obtain ⟨nextBlock, processBlock, finalize⟩ := precondition_eq_none.mp (h.accepted i pending)
  cases i with
  | init => exact CoreState.reset_inv
  | nextBlock =>
    cases hp : c.pstate with
    | reading =>
      rw [CoreState.completed_nextBlock_reading hp]
      exact (h.rules.readStep hp ans).finish_inv
    | emittingPadding =>
      rw [CoreState.completed_nextBlock_emittingPadding hp]
      have hf : c.final = false := h.rules.final_eq_false (by simp [hp])
      exact (h.rules.toDone.deliver hf _).finish_inv
    | done =>
      rw [CoreState.completed_nextBlock_done hp]
      have rules : c.reportExhausted.Reachable39 :=
        { h.rules with exhausted_done := fun _ => ⟨hp, nextBlock rfl⟩ }
      exact rules.finish_inv
  | processBlock =>
    have rules : c.processBlock.Reachable39 :=
      { h.rules with
        final_done := fun hf => ⟨(h.rules.final_done hf).1, rfl⟩
        exhausted_done := fun he => ⟨(h.rules.exhausted_done he).1, rfl⟩
        valid_not_final := nofun }
    exact rules.finish_inv
  | finalize =>
    have rules : { c with final := true }.Reachable39 :=
      { h.rules with
        final_done := fun _ => finalize rfl
        valid_not_final := fun hv => absurd ((finalize rfl).2.symm.trans hv) nofun }
    exact rules.finish_inv

/-- A host statement keeps the CORE's invariant: at most it writes CMD. -/
theorem HostEffect.core_inv {s t : State} (effect : HostEffect s t) (h : s.core.Inv) : t.core.Inv := by
  cases effect with
  | idle core _ => exact core ▸ h
  | write v core _ => exact core ▸ h.cmdWrite v
  | stream _ _ core _ => exact core ▸ h

/-- Every step keeps the invariant of the whole machine. -/
theorem State.Inv.step {s t : State} (h : s.Inv) (hstep : step s = .next t) : t.Inv := by
  cases step_turnEffect hstep with
  | host _ kept effect => exact ⟨effect.core_inv h.core, kept.vars h.vars⟩
  | completion i _ _ pending eq => exact eq ▸ ⟨h.core.completed pending _, h.vars⟩
  | empty _ _ _ eq => exact eq ▸ ⟨h.core.rules.finish_inv, h.vars⟩
  | idle _ _ eq => exact eq ▸ ⟨h.core, h.vars⟩
  | reset _ eq =>
    rw [eq]
    exact ⟨by rw [hardwareReset_core]; exact CoreState.reset_inv, by rw [hardwareReset_host]; exact h.vars⟩

/-- Every run keeps the invariant of the whole machine. -/
theorem State.Inv.run {k : Nat} {s t : State} (h : s.Inv) (hrun : Host.Core.run Sys2Proof.core k s = .next t) :
    t.Inv := by
  induction k generalizing s with
  | zero =>
    obtain rfl : s = t := by injection hrun
    exact h
  | succ k ih =>
    simp only [Host.Core.run] at hrun
    split at hrun
    · rename_i u hstep
      exact ih (h.step hstep) hrun
    · cases hrun
    · cases hrun

/-- Settles O54: the invariant follows the effect of the turn, and a pending command's accepted precondition gives what
its completion needs. -/
theorem everyStepKeepsTheInvariant : Obligations.EveryStepKeepsTheInvariant :=
  fun _ _ inv hstep => inv.step hstep

/-- Settles O53: the CORE of R40 meets every rule, and no host variable is set. -/
theorem resetMeetsTheInvariant : Obligations.ResetMeetsTheInvariant :=
  ⟨CoreState.reset_inv, rfl⟩

/-- Settles O55: the invariant holds with the CORE at reset, and every run keeps it. -/
theorem reachableStatesSatisfyTheInvariants : Obligations.ReachableStatesSatisfyTheInvariants := by
  intro k s t atReset vars hrun
  have start : s.Inv := ⟨atReset ▸ CoreState.reset_inv, vars⟩
  exact (start.run hrun).core.rules

end Sys2Proof.Machine
end

section
/-! PROOFS. Which steps move the digest state, LEN, PSTATE and a returned block (R22, R24, R26, R27, R168). -/

namespace Sys2Proof.Machine

/-- A read step leaves the digest state alone (R122, R164). -/
theorem CoreState.readStep_digestState (c : CoreState) (ans : FillAnswer) :
    (c.readStep ans).digestState = c.digestState := by
  obtain ⟨-, eq⟩ | ⟨bytes, -, -, ⟨-, eq⟩ | ⟨-, eq⟩ | ⟨-, -, eq⟩⟩ := c.readStep_cases ans
  · rw [eq, c.raise_frame]; rfl
  · rw [eq]; rfl
  · rw [eq]; rfl
  · rw [eq]; rfl

/-- A read step that fails counts nothing (R122, R209). -/
theorem CoreState.readStep_len_error (c : CoreState) : (c.readStep .error).len = c.len :=
  c.raise_len .ioReadFailed

/-- A read step counts exactly the bytes it receives (R123). -/
theorem CoreState.readStep_len_data (c : CoreState) (bytes : List Byte) (h : bytes.length ≤ 64) :
    (c.readStep (.data bytes h)).len = c.len + BitVec.ofNat 64 bytes.length := by
  simp only [CoreState.readStep, CoreState.finalBlock]
  split
  · rfl
  · split <;> rfl

/-- Settles O40: of the four completions only INIT's and PROCESS_BLOCK's write the digest state. -/
theorem digestStateChangesOnlyByProcessInitOrReset : Obligations.DigestStateChangesOnlyByProcessInitOrReset := by
  intro s t hstep changed
  obtain ⟨turn, busy, i, pending, core⟩ | ⟨turn, core⟩ :=
    step_change_cases CoreState.digestState (fun _ _ _ _ _ => rfl) hstep changed
  · rw [core] at changed ⊢
    cases i with
    | init => exact .inr ⟨rfl, .inr ⟨turn, busy, pending⟩⟩
    | nextBlock =>
      refine absurd ?_ changed
      cases hp : s.core.pstate with
      | reading =>
        rw [CoreState.completed_nextBlock_reading hp]
        exact s.core.readStep_digestState _
      | emittingPadding => rw [CoreState.completed_nextBlock_emittingPadding hp]; rfl
      | done => rw [CoreState.completed_nextBlock_done hp]; rfl
    | processBlock => exact .inl ⟨turn, busy, pending, rfl⟩
    | finalize => exact absurd rfl changed
  · exact .inr ⟨by rw [core]; rfl, .inl turn⟩

/-- Settles O41: of the completions only INIT's and a read step's write LEN, and a failed read counts nothing. -/
theorem runningLengthCountsOnlyBytesRead : Obligations.RunningLengthCountsOnlyBytesRead := by
  intro s t hstep changed
  obtain ⟨turn, busy, i, pending, core⟩ | ⟨turn, core⟩ :=
    step_change_cases CoreState.len (fun _ _ _ _ _ => rfl) hstep changed
  · rw [core] at changed ⊢
    cases i with
    | init => exact .inr ⟨rfl, .inr ⟨turn, busy, pending⟩⟩
    | nextBlock =>
      cases hp : s.core.pstate with
      | reading =>
        rw [CoreState.completed_nextBlock_reading hp, CoreState.finish_len] at changed ⊢
        cases answer : s.source.fill.1 with
        | error => exact absurd (answer ▸ s.core.readStep_len_error) changed
        | data bytes bound =>
          exact .inl ⟨turn, busy, pending, rfl, bytes, bound, rfl, s.core.readStep_len_data bytes bound⟩
      | emittingPadding => exact absurd (by rw [CoreState.completed_nextBlock_emittingPadding hp]; rfl) changed
      | done => exact absurd (by rw [CoreState.completed_nextBlock_done hp]; rfl) changed
    | processBlock => exact absurd rfl changed
    | finalize => exact absurd rfl changed
  · exact .inr ⟨by rw [core]; rfl, .inl turn⟩

/-- Settles O42: NEXT_BLOCK leaves Reading, turns EmittingPadding into Done, and keeps Done. -/
theorem producerOnlyMovesForward : Obligations.ProducerOnlyMovesForward := by
  intro s t hstep changed
  obtain ⟨turn, busy, i, pending, core⟩ | ⟨turn, core⟩ :=
    step_change_cases CoreState.pstate (fun _ _ _ _ _ => rfl) hstep changed
  · cases i with
    | init => exact .inl ⟨by rw [core]; rfl, .inr ⟨turn, busy, pending⟩⟩
    | nextBlock =>
      refine .inr ⟨turn, busy, pending, ?_⟩
      cases hp : s.core.pstate with
      | reading => exact .inl ⟨rfl, hp ▸ changed⟩
      | emittingPadding => exact .inr ⟨rfl, by rw [core, CoreState.completed_nextBlock_emittingPadding hp]; rfl⟩
      | done => exact absurd (by rw [core, CoreState.completed_nextBlock_done hp]; rfl) changed
    | processBlock => exact absurd (by rw [core]; rfl) changed
    | finalize => exact absurd (by rw [core]; rfl) changed
  · exact .inl ⟨by rw [core]; rfl, .inl turn⟩

/-- Settles O48: the accepted precondition of a pending NEXT_BLOCK or FINALIZE excludes a waiting block, so only INIT
and PROCESS_BLOCK can complete while there is one. -/
theorem returnedBlockIsKeptUntilCompressed : Obligations.ReturnedBlockIsKeptUntilCompressed := by
  intro s t inv valid hstep
  by_cases kept : (t.core.blk, t.core.blkValid) = (s.core.blk, s.core.blkValid)
  · obtain ⟨blk, blkValid⟩ := Prod.mk.inj kept
    exact .inl ⟨blk, blkValid.trans valid⟩
  obtain ⟨turn, -, i, pending, core⟩ | ⟨turn, core⟩ :=
    step_change_cases (fun c => (c.blk, c.blkValid)) (fun _ _ _ _ _ => rfl) hstep kept
  · obtain ⟨nextBlock, -, finalize⟩ := precondition_eq_none.mp (inv.core.accepted i pending)
    cases i with
    | init => exact .inr (.inr ⟨core, .inr ⟨turn, pending⟩⟩)
    | nextBlock => exact absurd ((nextBlock rfl).symm.trans valid) nofun
    | processBlock => exact .inr (.inl ⟨turn, pending, by rw [core]; exact ⟨rfl, rfl, rfl⟩⟩)
    | finalize => exact absurd ((finalize rfl).2.symm.trans valid) nofun
  · exact .inr (.inr ⟨core, .inl turn⟩)

end Sys2Proof.Machine
end

section
/-! PROOFS. Where the register window answers and where it is a BusError, what a read leaves behind, and the Byte
Source (R51 to R60). -/

namespace Sys2Proof.Machine

/-! ## The register map (R32, R53, R55) -/

theorem mappedOffset_iff {off : Nat} :
    mappedOffset off = true ↔ off % 4 = 0 ∧ (off < 0x20 ∨ 0x40 ≤ off ∧ off < 0x80) := by
  simp [mappedOffset]

/-- A read off the exact registers draws the next free value (R57). -/
theorem busRead_of_free {off : Nat} {s : State} (mapped : mappedOffset off = true)
    (isFree : ¬(off = cmdOffset ∨ off = statusOffset ∨ s.core.busy = false)) :
    busRead off s = some (Config.busyRead s.place s.draws, s.draw) := by
  rw [busRead, if_pos mapped, if_neg isFree]

/-- A read is a BusError at the offsets that hold no register, whatever the machine's state (R53). -/
theorem busRead_eq_none {off : Nat} {s : State} : busRead off s = none ↔ ¬mappedOffset off = true := by
  unfold busRead
  split
  · split <;> simp [*]
  · simp [*]

/-- CMD is the one register that takes a write (R55). -/
theorem busWrite_eq_none {off : Nat} {v : Word} {s : State} : busWrite off v s = none ↔ off ≠ cmdOffset := by
  constructor
  · rintro rejected rfl
    cases rejected
  · intro notCmd
    rw [Option.eq_none_iff_forall_ne_some]
    exact fun _ accepted => notCmd (busWrite_cases accepted).1

/-- Settles O12: the unmapped offsets are the misaligned, the reserved and the outside ones. -/
theorem busErrorExactlyOffTheRegisterMap : Obligations.BusErrorExactlyOffTheRegisterMap := by
  refine ⟨fun off s => ?_, fun _ _ _ => busWrite_eq_none⟩
  rw [busRead_eq_none, mappedOffset_iff]
  omega

/-! ## Accesses by bus address (R51, R53) -/

theorem windowOffset_base_add (place : Nat) {off : Nat} (inside : off < 0x80) :
    windowOffset place (Config.base place + off) = some off := by
  rw [windowOffset, if_pos (by omega), Nat.add_sub_cancel_left]

theorem windowOffset_outside {place addr : Nat}
    (outside : addr < Config.base place ∨ Config.base place + 0x80 ≤ addr) : windowOffset place addr = none :=
  if_neg (by omega)

/-- Settles O13: the width is checked first, and then the window decides between the offset and a BusError. -/
theorem accessByAddressReachesItsOffset : Obligations.AccessByAddressReachesItsOffset := by
  refine ⟨fun place => Nat.mul_mod_right _ _, fun a s width => if_neg width, fun addr op s outside => ?_,
    fun off dst s inside => ?_, fun off v s inside => ?_⟩
  · simp only [hostAccess, windowOffset_outside outside, if_true]
  · simp only [hostAccess, windowOffset_base_add s.place inside, if_true]
  · simp only [hostAccess, windowOffset_base_add s.place inside, if_true]

/-! ## What a read returns and leaves behind (R54, R56, R57) -/

/-- Settles O17: with BUSY = 1 only the offsets of CMD and STATUS are exact. -/
theorem busyReadsDrawAFreeValue : Obligations.BusyReadsDrawAFreeValue := by
  intro s off busy aligned range
  have isFree : ¬(off = cmdOffset ∨ off = statusOffset ∨ s.core.busy = false) := by
    simp only [busy, cmdOffset, statusOffset, Bool.true_eq_false, or_false]
    omega
  exact busRead_of_free (mappedOffset_iff.mpr ⟨aligned, by omega⟩) isFree

/-- Settles O18: a read at most counts a draw, and an exact one leaves the very same machine. -/
theorem readsHaveNoSideEffectAndRepeat : Obligations.ReadsHaveNoSideEffectAndRepeat := by
  intro off s t w read
  have mapped : mappedOffset off = true := (busRead_cases read).1
  by_cases isExact : off = cmdOffset ∨ off = statusOffset ∨ s.core.busy = false
  · obtain ⟨-, rfl⟩ : s.core.register off = w ∧ s = t := by
      simpa [busRead_of_exact mapped isExact] using read
    exact ⟨rfl, rfl, rfl, rfl, fun _ => read⟩
  · obtain ⟨-, rfl⟩ : Config.busyRead s.place s.draws = w ∧ s.draw = t := by
      simpa [busRead_of_free mapped isExact] using read
    exact ⟨rfl, rfl, rfl, rfl, fun again => absurd (or_rotate.mp again) isExact⟩

/-- Settles O19: each idle read leaves the machine as it is, so both halves are of one LEN. -/
theorem idleLengthPairIsConsistent : Obligations.IdleLengthPairIsConsistent := by
  intro s t u lo hi idle readLo readHi
  obtain ⟨lenLo, lenHi, -⟩ := idleReadsGiveEachRegister s idle
  obtain ⟨rfl, rfl⟩ := Prod.mk.inj (Option.some.inj (lenLo.symm.trans readLo))
  obtain ⟨rfl, -⟩ := Prod.mk.inj (Option.some.inj (lenHi.symm.trans readHi))
  rw [BitVec.extractLsb'_append_extractLsb'_eq_extractLsb' (by decide)]
  exact BitVec.extractLsb'_eq_self

/-! ## The Byte Source (R58 to R60) -/

theorem CoreState.asks_iff {c : CoreState} {i : Instr} :
    c.asks i = true ↔ i = .nextBlock ∧ c.pstate = .reading := by
  simp [CoreState.asks]

theorem CoreState.fillPending_iff {c : CoreState} :
    c.fillPending = true ↔ c.busy = true ∧ c.pending = some .nextBlock ∧ c.pstate = .reading := by
  simp [CoreState.fillPending, and_assoc]

/-- Settles O43: a completion moves the source only where its command asks, a host statement only where it is SRC, and
a reset only while a fill is outstanding. -/
theorem sourceIsAskedOnlyByNextBlockInReading : Obligations.SourceIsAskedOnlyByNextBlockInReading := by
  intro s t hstep moved
  cases step_turnEffect hstep with
  | host turn _ effect =>
    cases effect with
    | idle _ source => exact absurd source moved
    | write _ _ source => exact absurd source moved
    | stream bytes at_pc _ source => exact .inr (.inl ⟨turn, bytes, at_pc, source⟩)
  | completion i turn busy pending eq =>
    have source : t.source = if s.core.asks i then s.source.fill.2 else s.source := congrArg State.source eq
    by_cases asks : s.core.asks i = true
    · obtain ⟨rfl, reading⟩ := CoreState.asks_iff.mp asks
      exact .inl ⟨turn, busy, pending, reading, source.trans (if_pos asks)⟩
    · exact absurd (source.trans (if_neg asks)) moved
  | empty _ _ _ eq => exact absurd (congrArg State.source eq) moved
  | idle _ _ eq => exact absurd (congrArg State.source eq) moved
  | reset turn eq =>
    by_cases outstanding : s.core.fillPending = true
    · exact .inr (.inr ⟨turn, CoreState.fillPending_iff.mp outstanding⟩)
    · exact absurd (eq ▸ hardwareReset_source (Bool.eq_false_iff.mpr outstanding)) moved

/-- Settles O56: a prepared answer stands first in what is delivered and carries its clause of the contract; past the
answers a fill cuts the stream, and it is short only where it takes all of it. -/
theorem fillsDeliverTheStreamInOrder : Obligations.FillsDeliverTheStreamInOrder := by
  intro src src' bytes bound filled
  obtain ⟨a, rest, answers, fill⟩ | ⟨answers, _, fill⟩ := src.fill_cases
  · obtain ⟨rfl, rfl⟩ := Prod.mk.inj (fill.symm.trans filled)
    rw [answers]
    exact ⟨rfl, fun ⟨short, contract⟩ => ⟨contract, short⟩⟩
  · obtain ⟨answer, rfl⟩ := Prod.mk.inj (fill.symm.trans filled)
    obtain rfl := FillAnswer.data.inj answer
    rw [answers]
    refine ⟨(List.take_append_drop 64 src.stream).symm, fun _ => ⟨trivial, fun short => ?_⟩⟩
    rw [List.length_take] at short
    exact List.drop_eq_nil_of_le (by omega)

end Sys2Proof.Machine
end

section
/-! PROOFS. The command word: which words name a command, and which are ILLEGAL (R80 to R85). -/

namespace Sys2Proof

/-! ## Encode and decode (R82, R85) -/

/-- The round trip: the decoder reads back the command whose word it is given. -/
theorem decode_encode (i : Instr) : decode (encode i) = .command i := by
  cases i <;> rfl

/-- The converse: a word that names a command is that command's word. -/
theorem eq_encode_of_decode {v : Word} {i : Instr} (named : decode v = .command i) : v = encode i := by
  obtain ⟨rfl, eq⟩ | ⟨rfl, eq⟩ | ⟨rfl, eq⟩ | ⟨rfl, eq⟩ | ⟨-, -, -, -, eq⟩ := decode_cases v
  all_goals cases eq.symm.trans named <;> rfl

theorem decode_eq_command_iff {v : Word} {i : Instr} : decode v = .command i ↔ v = encode i :=
  ⟨eq_encode_of_decode, fun eq => eq ▸ decode_encode i⟩

/-- The decoder answers ILLEGAL exactly where it names no command. -/
theorem decode_illegal_iff {v : Word} : (∃ why, decode v = .illegal why) ↔ ¬∃ i, decode v = .command i := by
  cases decode v <;> simp

/-! ## The fields of a command word (R80) -/

/-- A word is its RSV field above its OP field (R80). -/
theorem rsvField_append_opField (v : Word) : (rsvField v ++ opField v : BitVec 32) = v := by
  rw [rsvField, opField, BitVec.extractLsb'_append_extractLsb'_eq_extractLsb' (by decide)]
  exact BitVec.extractLsb'_eq_self

/-- The layout of R80 and R82, whatever the command. -/
theorem encode_layout (i : Instr) : Laws.Layout.Statement i := by
  cases i with
  | init => exact Laws.Layout.init
  | nextBlock => exact Laws.Layout.nextBlock
  | processBlock => exact Laws.Layout.processBlock
  | finalize => exact Laws.Layout.finalize

/-- A word is a command's word exactly when its two fields are that word's fields. -/
theorem eq_encode_iff {v : Word} {i : Instr} : v = encode i ↔ rsvField v = 0 ∧ opField v = opcode i := by
  constructor
  · rintro rfl
    obtain ⟨rsv, op, -⟩ := encode_layout i
    exact ⟨rsv, op⟩
  · rintro ⟨rsv, op⟩
    rw [← rsvField_append_opField v, rsv, op]
    rfl

/-- The opcodes of R82 are 0x01 to 0x04. -/
theorem exists_opcode_iff {op : Byte} : (∃ i, op = opcode i) ↔ op ≠ 0 ∧ op.toNat < 5 := by
  constructor
  · rintro ⟨i, rfl⟩
    cases i <;> decide
  · rintro ⟨notZero, below⟩
    obtain zero | one | two | three | four :
        op.toNat = 0 ∨ op.toNat = 1 ∨ op.toNat = 2 ∨ op.toNat = 3 ∨ op.toNat = 4 := by omega
    · exact absurd (BitVec.eq_of_toNat_eq zero) notZero
    · exact ⟨.init, BitVec.eq_of_toNat_eq one⟩
    · exact ⟨.nextBlock, BitVec.eq_of_toNat_eq two⟩
    · exact ⟨.processBlock, BitVec.eq_of_toNat_eq three⟩
    · exact ⟨.finalize, BitVec.eq_of_toNat_eq four⟩

/-! ## The obligations -/

/-- Settles O1: the round trip, and by the decoder's cases its converse. -/
theorem decodeNamesACommandExactlyOnItsWord : Obligations.DecodeNamesACommandExactlyOnItsWord :=
  fun _ _ => decode_eq_command_iff

/-- Settles O2: a word names a command when RSV is 0 and OP is an opcode, and R83's three cases are the rest. -/
theorem everyOtherWordIsIllegal : Obligations.EveryOtherWordIsIllegal := by
  intro v
  have isCommand : (∃ i, decode v = .command i) ↔ rsvField v = 0 ∧ opField v ≠ 0 ∧ (opField v).toNat < 5 := by
    simp only [decode_eq_command_iff, eq_encode_iff, exists_and_left, exists_opcode_iff]
  simp only [decode_illegal_iff, isCommand, not_and_or, ne_eq, not_not, not_lt]
  exact or_rotate.symm

/-- Settles O3: each word is decoded as it stands. -/
theorem theSpecsWordsDecode : Obligations.TheSpecsWordsDecode :=
  ⟨rfl, rfl, rfl, rfl, rfl, rfl, rfl⟩

end Sys2Proof
end

section
/-! PROOFS. The host assembly: its variables, what each statement does with the Host's turn, and a command statement
with its completion (R86, R87, R104). -/

namespace Sys2Proof.Machine

/-- Settles O51: reading after writing, by the laws of the variable list under each variable's key. -/
theorem hostVariablesHoldWhatWasWritten : Obligations.HostVariablesHoldWhatWasWritten :=
  fun h x w wf => ⟨HostAgent.get_set_self wf x w, fun _ other => h.get_set_ne other w,
    varsWf_writeVars wf x.key w, rfl, rfl⟩

/-! ## What each statement does (R86) -/

/-- The Host's turn is the statement its program counter stands at. -/
theorem hostTurn_at {s : State} {i : HostInstr} (at_pc : s.host.program[s.host.pc]? = some i) :
    hostTurn s = hostStatement i s := by
  rw [hostTurn, at_pc]

/-- A write of CMD is never a BusError (R55). -/
theorem hostWrite_cmd (v : Word) (s : State) :
    hostWrite cmdOffset v s = .next (s.withCore (cmdWrite v s.core)).hostNext := rfl

theorem hostWrite_of_ne_cmd {off : Nat} (notCmd : off ≠ cmdOffset) (v : Word) (s : State) :
    hostWrite off v s = .fault .busError := by
  rw [hostWrite, busWrite_eq_none.mpr notCmd]

/-- A read leaves the Host to the statement, whose variable takes the word. -/
theorem hostRead_of_some {off : Nat} {s t : State} {w : Word} (read : busRead off s = some (w, t)) (x : HostVar) :
    hostRead x off s = .next { t with host := { s.host.set x w with pc := s.host.pc + 1 } } := by
  obtain ⟨-, host, -⟩ := readsHaveNoSideEffectAndRepeat off s t w read
  rw [hostRead, read, ← host]
  rfl

theorem hostRead_of_none {off : Nat} {s : State} (rejected : busRead off s = none) (x : HostVar) :
    hostRead x off s = .fault .busError := by
  rw [hostRead, rejected]

theorem hostJump_of_target {l n : Nat} {s : State} (target : labelTarget s.host.program l = some n) :
    hostJump l s = .next (s.hostGoto n) := by
  rw [hostJump, target]

theorem hostJump_of_no_target {l : Nat} {s : State} (noTarget : labelTarget s.host.program l = none) :
    hostJump l s = .refused (.badLabel l) := by
  rw [hostJump, noTarget]

/-- `BT` branches on a bit of 1. -/
theorem hostBranch_true (x : HostVar) (b : Fin 32) (l : Nat) (s : State) :
    hostBranch x b true l s = if (s.host.get x).getLsbD b.val then hostJump l s else .next s.hostNext := rfl

/-- `BF` branches on a bit of 0. -/
theorem hostBranch_false (x : HostVar) (b : Fin 32) (l : Nat) (s : State) :
    hostBranch x b false l s = if (s.host.get x).getLsbD b.val then .next s.hostNext else hostJump l s := by
  unfold hostBranch
  cases (s.host.get x).getLsbD b.val <;> rfl

/-- Settles O50: the Host's turn is the statement at its program counter, and each clause is one statement's rule. -/
theorem hostStatementsDoTheirWork : Obligations.HostStatementsDoTheirWork := by
  intro s
  refine ⟨fun v at_pc => (hostTurn_at at_pc).trans (hostWrite_cmd v s),
    fun off v at_pc notCmd => (hostTurn_at at_pc).trans (hostWrite_of_ne_cmd notCmd v s),
    fun x off w t at_pc read => (hostTurn_at at_pc).trans (hostRead_of_some read x),
    fun x off at_pc rejected => (hostTurn_at at_pc).trans (hostRead_of_none rejected x),
    fun x b l n at_pc target => (hostTurn_at at_pc).trans ((hostBranch_true x b l s).trans ?bt),
    fun x b l n at_pc target => (hostTurn_at at_pc).trans ((hostBranch_false x b l s).trans ?bf),
    fun l n at_pc target => (hostTurn_at at_pc).trans (hostJump_of_target target),
    fun l at_pc noTarget => (hostTurn_at at_pc).trans (hostJump_of_no_target noTarget),
    fun x b l at_pc noTarget => (hostTurn_at at_pc).trans ((hostBranch_true x b l s).trans ?btRefused),
    fun x b l at_pc noTarget => (hostTurn_at at_pc).trans ((hostBranch_false x b l s).trans ?bfRefused),
    fun l at_pc => hostTurn_at at_pc, fun bytes at_pc => hostTurn_at at_pc, fun a at_pc => hostTurn_at at_pc⟩
  case bt | bf =>
    rw [hostJump_of_target target]
    split <;> rfl
  case btRefused | bfRefused =>
    rw [hostJump_of_no_target noTarget]
    rfl

/-! ## A command statement and its completion (R87, R104) -/

/-- A step takes the turn that the schedule prescribes (log entry 4). -/
theorem step_of_sched {s : State} {t : Turn} {rest : List Turn} (sched : s.sched = t :: rest) :
    step s = takeTurn t { s with sched := rest } := by
  rw [step, nextTurn, sched]

/-- A run goes on from the state its first step answers. -/
theorem run_succ_of_next {s t : State} (first : step s = .next t) (k : Nat) :
    Host.Core.run Sys2Proof.core (k + 1) s = Host.Core.run Sys2Proof.core k t := by
  have coreStep : Sys2Proof.core.step s = .next t := first
  simp only [Host.Core.run, coreStep]

/-- A run of one step is that step. -/
theorem run_one (s : State) : Host.Core.run Sys2Proof.core 1 s = step s := by
  simp only [Host.Core.run]
  split
  all_goals exact Eq.symm ‹_›

/-- Settles O6: the Host's turn is the CMD write of `doCommand`, and the Core's turn is the rest of it. -/
theorem hostCommandThenCoreTurnIsDoCommand : Obligations.HostCommandThenCoreTurnIsDoCommand := by
  intro s i rest sched at_pc
  have issue : step s = .next { s with
      core := cmdWrite (encode i) s.core
      host := { s.host with pc := s.host.pc + 1 }
      sched := .core :: rest } :=
    (step_of_sched sched).trans (hostTurn_at (s := { s with sched := .core :: rest }) at_pc)
  rw [run_succ_of_next issue, run_one, step_of_sched rfl]
  rfl

end Sys2Proof.Machine
end

section
/-! PROOFS. Control: which CMD writes are issued and which are discarded, and how the pending command waits for its
completion (R100 to R105). -/

namespace Sys2Proof.Machine

/-! ## Issue and discard (R100 to R102) -/

/-- With BUSY = 0, a command that R100 and R101 accept is issued. -/
theorem cmdWrite_of_accepted {c : CoreState} {i : Instr} (idle : c.busy = false)
    (faultFree : c.fault = false ∨ i = .init) (accepted : precondition i c = none) :
    cmdWrite (encode i) c = c.issue i := by
  have notDiscarded : ¬(c.fault = true ∧ i ≠ .init) := by simpa [or_iff_not_imp_left] using faultFree
  simp [cmdWrite, idle, decode_encode, notDiscarded, accepted]

/-- A CMD write that sets BUSY is the issue of the command its word names, accepted by R100 and R101. -/
theorem cmdWrite_issued {v : Word} {c : CoreState} (idle : c.busy = false) (issued : (cmdWrite v c).busy = true) :
    ∃ i, decode v = .command i ∧ (c.fault = false ∨ i = .init) ∧ precondition i c = none ∧
      cmdWrite v c = c.issue i := by
  obtain ⟨-, eq⟩ | ⟨-, f, eq⟩ | ⟨-, accepted⟩ := cmdWrite_cases v c
  · exact absurd (eq ▸ issued) (Bool.eq_false_iff.mp idle)
  · rw [eq, CoreState.raise_busy] at issued
    exact absurd issued (Bool.eq_false_iff.mp idle)
  · exact accepted

/-- Settles O7: the word names its own command, so what the write issues is that command, under its precondition. -/
theorem commandIsIssuedExactlyWhenAccepted : Obligations.CommandIsIssuedExactlyWhenAccepted := by
  intro c i idle
  have ofIssued (issued : (cmdWrite (encode i) c).busy = true) :
      (c.fault = false ∨ i = .init) ∧ precondition i c = none ∧ cmdWrite (encode i) c = c.issue i := by
    obtain ⟨j, named, accepted⟩ := cmdWrite_issued idle issued
    obtain rfl := Decoded.command.inj ((decode_encode i).symm.trans named)
    exact accepted
  rw [← precondition_eq_none]
  refine ⟨⟨fun issued => (ofIssued issued).imp_right And.left, fun ⟨faultFree, accepted⟩ => ?_⟩,
    fun issued => (ofIssued issued).2.2⟩
  rw [cmdWrite_of_accepted idle faultFree accepted, CoreState.issue_busy]

/-- While FAULT = 1, only INIT's word is not discarded, and only with BUSY = 0 (R102). -/
theorem cmdWrite_of_discarded {c : CoreState} {v : Word} (fault : c.fault = true)
    (discarded : c.busy = true ∨ v ≠ encode .init) : cmdWrite v c = c := by
  obtain ⟨-, eq⟩ | ⟨clear, -⟩ | ⟨idle, i, named, faultFree, -⟩ := cmdWrite_cases v c
  · exact eq
  · exact absurd (clear.symm.trans fault) nofun
  · obtain rfl : i = .init := faultFree.resolve_left (by simp [fault])
    exact absurd (eq_encode_of_decode named) (discarded.resolve_left (by simp [idle]))

/-- Settles O9: the CMD write is a bus write of the CORE that the discard leaves in place. -/
theorem discardedWriteChangesNothing : Obligations.DiscardedWriteChangesNothing :=
  fun s _ fault discarded => congrArg (fun c => some (s.withCore c)) (cmdWrite_of_discarded fault discarded)

/-! ## The completion of the pending command (R104, R105) -/

theorem coreTurn_of_pending {s : State} {i : Instr} (busy : s.core.busy = true) (pending : s.core.pending = some i) :
    coreTurn s = exec i s := by
  simp only [coreTurn, busy, pending, if_true]

/-- Where the schedule is empty, the step is the default turn (log entry 4). -/
theorem step_of_sched_nil {s : State} (sched : s.sched = []) : step s = takeTurn (defaultTurn s) s := by
  rw [step, nextTurn, sched]

/-- Settles O4: the turn is the Core's, by default as well as by the schedule. -/
theorem stepCompletesThePendingCommand : Obligations.StepCompletesThePendingCommand := by
  intro s i busy pending
  refine ⟨fun sched => ?_, fun rest sched => (step_of_sched sched).trans (coreTurn_of_pending busy pending)⟩
  rw [step_of_sched_nil sched, defaultTurn, if_pos busy]
  exact coreTurn_of_pending busy pending

/-- A word that names a command is fetched by issuing that command and giving the Core the next turn (log entry 5). -/
theorem State.withFetchWord_of_command {s : State} {w : Nat} {i : Instr}
    (named : decode (BitVec.ofNat 32 w) = .command i) :
    s.withFetchWord 32 w = { s with core := s.core.issue i, sched := .core :: s.sched } := by
  rw [State.withFetchWord, decodeTableWord, if_pos rfl, named]
  rfl

/-- Settles O5: the fetch leaves the word's command pending and the Core's turn first on the schedule. -/
theorem stepRunsTheFetchedWord : Obligations.StepRunsTheFetchedWord := by
  intro s w i _ named
  rw [State.withFetchWord_of_command named, step_of_sched rfl]
  exact coreTurn_of_pending rfl rfl

/-- Settles O28: INIT's completion is the CORE of R40 with BUSY and PENDING cleared, whatever they were. -/
theorem initStartsAFreshComputation : Obligations.InitStartsAFreshComputation :=
  fun _ => rfl

/-! ## The pending command while the Host moves (R103) -/

/-- A CMD write while BUSY = 1 writes FAULT and FCODE at most (R103, R208). -/
theorem cmdWrite_of_busy {c : CoreState} (busy : c.busy = true) (v : Word) :
    cmdWrite v c = { c with fault := (cmdWrite v c).fault, fcode := (cmdWrite v c).fcode } := by
  obtain ⟨-, eq⟩ | ⟨-, f, eq⟩ | ⟨idle, -⟩ := cmdWrite_cases v c
  · rw [eq]
  · rw [eq, ← c.raise_frame f]
  · exact absurd (idle.symm.trans busy) nofun

/-- Whatever the Host does while BUSY = 1, the CORE changes in FAULT and FCODE at most (R103). -/
theorem HostEffect.core_of_busy {s t : State} (effect : HostEffect s t) (busy : s.core.busy = true) :
    t.core = { s.core with fault := t.core.fault, fcode := t.core.fcode } := by
  cases effect with
  | idle core _ => rw [core]
  | write v core _ => rw [core, ← cmdWrite_of_busy busy v]
  | stream _ _ core _ => rw [core]

/-- A run that does not stop answers every step of it with a next state. -/
theorem exists_step_of_run_succ {k : Nat} {s t : State} (hrun : Host.Core.run Sys2Proof.core (k + 1) s = .next t) :
    ∃ u, step s = .next u ∧ Host.Core.run Sys2Proof.core k u = .next t := by
  simp only [Host.Core.run] at hrun
  split at hrun
  · exact ⟨_, ‹_›, hrun⟩
  · cases hrun
  · cases hrun

/-- Through a run of host turns from BUSY = 1 the CORE changes in FAULT and FCODE at most, and those turns are taken
off the schedule (R103). -/
theorem run_hostTurns_of_busy {n : Nat} {s t : State} {rest : List Turn} (busy : s.core.busy = true)
    (sched : s.sched = List.replicate n .host ++ rest) (hrun : Host.Core.run Sys2Proof.core n s = .next t) :
    t.core = { s.core with fault := t.core.fault, fcode := t.core.fcode } ∧ t.sched = rest := by
  induction n generalizing s with
  | zero =>
    obtain rfl : s = t := by injection hrun
    exact ⟨rfl, sched⟩
  | succ n ih =>
    obtain ⟨u, hstep, hrun⟩ := exists_step_of_run_succ hrun
    rw [List.replicate_succ, List.cons_append] at sched
    rw [step_of_sched sched] at hstep
    obtain ⟨kept, effect⟩ := hostTurn_effect hstep
    have first : u.core = { s.core with fault := u.core.fault, fcode := u.core.fcode } := effect.core_of_busy busy
    have stillBusy : u.core.busy = true := by rw [first]; exact busy
    obtain ⟨later, left⟩ := ih stillBusy kept.sched hrun
    exact ⟨later.trans (by rw [first]), left⟩

/-- Settles O47: after the host turns the same command is pending and the Core's turn is next. -/
theorem pendingCommandSurvivesHostTurns : Obligations.PendingCommandSurvivesHostTurns := by
  intro n s t i rest busy pending sched hrun
  obtain ⟨core, left⟩ := run_hostTurns_of_busy busy sched hrun
  have stillBusy : t.core.busy = true := by rw [core]; exact busy
  have stillPending : t.core.pending = some i := by rw [core]; exact pending
  exact ⟨core, (step_of_sched left).trans (coreTurn_of_pending stillBusy stillPending)⟩

end Sys2Proof.Machine
end

section
/-! PROOFS. NEXT_BLOCK by Producer state and answer (R121 to R130), and the length field it pads with (R131). -/

namespace Sys2Proof.Machine

/-! ## The length field (R131, R12) -/

/-- Eight times a Running Length is the length moved up three bits (R131). -/
theorem bitLength_eq_append (len : BitVec 64) : bitLength len = (len.extractLsb' 0 61 ++ 0#3 : BitVec 64) := by
  have eight : 8#64 = BitVec.twoPow 64 3 := rfl
  rw [bitLength, eight, BitVec.twoPow_mul_eq_shiftLeft]
  exact BitVec.shiftLeft_eq_concat_of_lt (by decide)

theorem bitLength_toNat (len : BitVec 64) : (bitLength len).toNat = 8 * len.toNat % 2 ^ 64 :=
  BitVec.toNat_mul _ _

/-- The length field of a stream's byte count (R131, R137). -/
theorem bitLength_ofNat (n : Nat) : bitLength (BitVec.ofNat 64 n) = BitVec.ofNat 64 (8 * n) :=
  BitVec.ofNat_mul_ofNat 8 n

/-- Settles O23: a multiplication by 8 modulo 2^64 is a shift by three bits, and the bytes are listed in order. -/
theorem lengthFieldWrapsModulo64Bits : Obligations.LengthFieldWrapsModulo64Bits := by
  refine ⟨fun len => ⟨bitLength_toNat len, bitLength_eq_append len⟩, fun v i => ?_⟩
  fin_cases i <;> rfl

/-! ## One completion per Producer state and answer (R121 to R130) -/

/-- A NEXT_BLOCK completion in Reading asks the Byte Source once and does the read step with its answer (R122). -/
theorem exec_nextBlock_reading {s : State} (reading : s.core.pstate = .reading) {ans : FillAnswer} {src : ByteSource}
    (fill : s.source.fill = (ans, src)) :
    exec .nextBlock s = .next { s with core := (s.core.readStep ans).finish, source := src } := by
  rw [exec_eq, s.core.completed_nextBlock_reading reading]
  simp [CoreState.asks, reading, fill]

/-- A NEXT_BLOCK completion outside Reading leaves the Byte Source alone (R60, R129, R130). -/
theorem exec_nextBlock_not_reading {s : State} (past : s.core.pstate ≠ .reading) :
    exec .nextBlock s = .next { s with core := s.core.completed .nextBlock s.source.fill.1 } := by
  rw [exec_eq]
  simp [CoreState.asks, past]

/-- A full answer is counted and returned as it is (R122 to R124). -/
theorem CoreState.readStep_full (c : CoreState) {bytes : List Byte} (h : bytes.length ≤ 64)
    (full : bytes.length = 64) : c.readStep (.data bytes h) = (c.count 64).deliver (words16 bytes) := by
  simp only [CoreState.readStep, full, if_true, CoreState.fullBlock]

/-- A short answer whose padding fits is counted before the padding is made (R123, R126). -/
theorem CoreState.readStep_fits (c : CoreState) {bytes : List Byte} (h : bytes.length ≤ 64)
    (fits : bytes.length ≤ 55) : c.readStep (.data bytes h) =
      (c.count bytes.length).fitPadding bytes (bitLength (c.len + BitVec.ofNat 64 bytes.length)) := by
  have short : bytes.length ≠ 64 := by omega
  simp only [CoreState.readStep, short, if_false, CoreState.finalBlock, fits, if_true, CoreState.count_len]

/-- A short answer whose padding spills is counted before the padding is made (R123, R128). -/
theorem CoreState.readStep_spills (c : CoreState) {bytes : List Byte} (h : bytes.length ≤ 64)
    (low : 56 ≤ bytes.length) (high : bytes.length ≤ 63) : c.readStep (.data bytes h) =
      (c.count bytes.length).spillPadding bytes (bitLength (c.len + BitVec.ofNat 64 bytes.length)) := by
  have short : bytes.length ≠ 64 := by omega
  have spills : ¬bytes.length ≤ 55 := by omega
  simp only [CoreState.readStep, short, if_false, CoreState.finalBlock, spills, CoreState.count_len]

/-- An Error answer takes no byte of the stream (R209). -/
theorem ByteSource.stream_of_fill_error {src src' : ByteSource} (fill : src.fill = (.error, src')) :
    src'.stream = src.stream := by
  obtain ⟨a, rest, -, eq⟩ | ⟨-, h, eq⟩ := src.fill_cases
  · obtain ⟨-, rfl⟩ := Prod.mk.inj (eq.symm.trans fill)
    rfl
  · exact absurd (Prod.mk.inj (eq.symm.trans fill)).1 nofun

/-- Settles O29: the read step only raises the read failure, which a fault latched earlier outlives. -/
theorem nextBlockReadFailure : Obligations.NextBlockReadFailure := by
  intro s src reading fill
  refine ⟨ByteSource.stream_of_fill_error fill, fun clear => ?_, fun fault => ?_⟩
  · rw [exec_nextBlock_reading reading fill, CoreState.readStep, CoreState.raise_of_clear clear]
    rfl
  · rw [exec_nextBlock_reading reading fill, CoreState.readStep, CoreState.raise_of_fault fault]
    rfl

/-- Settles O30, by the read step of a full answer. -/
theorem nextBlockFullBlock : Obligations.NextBlockFullBlock := by
  intro s bytes h src reading fill full
  rw [exec_nextBlock_reading reading fill, s.core.readStep_full h full]
  rfl

/-- Settles O31, by the read step of a short answer whose padding fits. -/
theorem nextBlockPaddingFits : Obligations.NextBlockPaddingFits := by
  intro s bytes h src reading fill fits
  rw [exec_nextBlock_reading reading fill, s.core.readStep_fits h fits]
  rfl

/-- Settles O32: the buffered block is the length block of the Running Length that counts these bytes. -/
theorem nextBlockPaddingSpills : Obligations.NextBlockPaddingSpills := by
  intro s bytes h src reading fill low high
  refine ⟨lengthBlock (bitLength (s.core.len + BitVec.ofNat 64 bytes.length)), ?_, lengthBlock_words _⟩
  rw [exec_nextBlock_reading reading fill, s.core.readStep_spills h low high]
  rfl

/-- Settles O33: in EmittingPadding the completion is the buffered block's, and the Byte Source is not asked. -/
theorem nextBlockEmitsTheBufferedBlock : Obligations.NextBlockEmitsTheBufferedBlock := by
  intro s emitting
  rw [exec_nextBlock_not_reading (by simp [emitting]), s.core.completed_nextBlock_emittingPadding emitting]
  rfl

/-- Settles O34: in Done the completion only reports exhaustion, and the Byte Source is not asked. -/
theorem nextBlockReportsExhaustion : Obligations.NextBlockReportsExhaustion := by
  intro s isDone
  rw [exec_nextBlock_not_reading (by simp [isDone]), s.core.completed_nextBlock_done isDone]
  rfl

end Sys2Proof.Machine
end

section
/-! PROOFS. The padded stream and its blocks (R136, R137), and that NEXT_BLOCK in Reading returns them (R124 to R128,
R135). -/

namespace Sys2Proof.Machine

/-! ## Lengths -/

@[simp] theorem length_zeros (n : Nat) : (zeros n).length = n := List.length_replicate

theorem zeros_add (a b : Nat) : zeros (a + b) = zeros a ++ zeros b := List.replicate_add a b _

@[simp] theorem length_le64bytes (v : BitVec 64) : (le64bytes v).length = 8 := rfl

@[simp] theorem length_fitBuffer {bytes : List Byte} (fits : bytes.length ≤ 55) (v : BitVec 64) :
    (fitBuffer bytes v).length = 64 := by
  simp only [fitBuffer, List.length_append, List.length_singleton, length_zeros, length_le64bytes]
  omega

@[simp] theorem length_spillBuffer {bytes : List Byte} (high : bytes.length ≤ 63) :
    (spillBuffer bytes).length = 64 := by
  simp only [spillBuffer, List.length_append, List.length_singleton, length_zeros]
  omega

/-- The padded stream is as long as the blocks R136 counts, by whether the last bytes leave room for the length. -/
theorem length_padded (m : List Byte) : (padded m).length = 64 * blockCount m.length := by
  simp only [padded, blockCount, List.length_append, length_zeros, length_le64bytes, List.length_singleton]
  split <;> omega

/-- No smaller number of blocks holds the stream, the marker and the length field (R136). -/
theorem blockCount_bounds (L : Nat) : L + 8 < 64 * blockCount L ∧ 64 * blockCount L ≤ L + 8 + 64 := by
  unfold blockCount
  split <;> omega

/-- Settles O57: the two ends of the padded stream are read off its definition with its length. -/
theorem paddedStreamIsTheLeastWholeNumberOfBlocks : Obligations.PaddedStreamIsTheLeastWholeNumberOfBlocks := by
  intro m
  refine ⟨length_padded m, (blockCount_bounds _).1, (blockCount_bounds _).2, ?_, ?_⟩
  · rw [padded, List.append_assoc]
    exact List.take_left' (by simp)
  · refine List.drop_left' ?_
    have total := length_padded m
    rw [padded, List.length_append, length_le64bytes] at total
    omega

/-! ## What is left of the padded stream after q full blocks -/

section Blocks

variable {m : List Byte} {q : Nat} (consumed : 64 * q ≤ m.length)
include consumed

/-- After the first q blocks the stream's rest is padded as the whole stream is. -/
theorem drop_padded : (padded m).drop (64 * q) =
    m.drop (64 * q) ++ [0x80#8] ++ zeros ((55 + 64 - m.length % 64) % 64) ++
      le64bytes (BitVec.ofNat 64 (8 * m.length)) := by
  simp only [padded, List.append_assoc, List.drop_append_of_le_length consumed]

/-- Where the padding fits, the rest is one block (R126). -/
theorem drop_padded_of_fits (fits : (m.drop (64 * q)).length ≤ 55) :
    (padded m).drop (64 * q) = fitBuffer (m.drop (64 * q)) (bitLength (BitVec.ofNat 64 m.length)) := by
  rw [List.length_drop] at fits
  have fill : (55 + 64 - m.length % 64) % 64 = 55 - (m.length - 64 * q) := by omega
  rw [drop_padded consumed, fill, fitBuffer, List.length_drop, bitLength_ofNat]

/-- Where the padding spills, the rest is two blocks (R128). -/
theorem drop_padded_of_spills (low : 56 ≤ (m.drop (64 * q)).length) (high : (m.drop (64 * q)).length ≤ 63) :
    (padded m).drop (64 * q) = spillBuffer (m.drop (64 * q)) ++
      (zeros 56 ++ le64bytes (bitLength (BitVec.ofNat 64 m.length))) := by
  have fill : (55 + 64 - m.length % 64) % 64 = 63 - (m.drop (64 * q)).length + 56 := by
    rw [List.length_drop] at low high ⊢
    omega
  rw [drop_padded consumed, fill, zeros_add, spillBuffer, bitLength_ofNat]
  simp only [List.append_assoc]

/-- The last block where the padding fits (R126). -/
theorem blockOf_fits (fits : (m.drop (64 * q)).length ≤ 55) :
    blockOf m q = words16 (fitBuffer (m.drop (64 * q)) (bitLength (BitVec.ofNat 64 m.length))) := by
  rw [blockOf, drop_padded_of_fits consumed fits, List.take_of_length_le (length_fitBuffer fits _).le]

/-- The last block but one where the padding spills (R128). -/
theorem blockOf_spills (low : 56 ≤ (m.drop (64 * q)).length) (high : (m.drop (64 * q)).length ≤ 63) :
    blockOf m q = words16 (spillBuffer (m.drop (64 * q))) := by
  rw [blockOf, drop_padded_of_spills consumed low high, List.take_left' (length_spillBuffer high)]

/-- The last block where the padding spills is the length block (R128). -/
theorem blockOf_succ_of_spills (low : 56 ≤ (m.drop (64 * q)).length) (high : (m.drop (64 * q)).length ≤ 63) :
    blockOf m (q + 1) = lengthBlock (bitLength (BitVec.ofNat 64 m.length)) := by
  rw [blockOf, Nat.mul_succ, ← List.drop_drop, drop_padded_of_spills consumed low high,
    List.drop_left' (length_spillBuffer high), List.take_of_length_le (by simp), lengthBlock]

end Blocks

/-- A block before the end of the stream is the stream's own (R124). -/
theorem blockOf_full {m : List Byte} {q : Nat} (whole : 64 * (q + 1) ≤ m.length) :
    blockOf m q = words16 ((m.drop (64 * q)).take 64) := by
  have room : 64 ≤ (m.drop (64 * q)).length := by
    rw [List.length_drop]
    omega
  rw [blockOf, drop_padded (by omega), List.append_assoc, List.append_assoc, List.take_append_of_le_length room]

/-- With no answer prepared, a fill takes the next 64 bytes of the stream, or what is left of it (R59). -/
theorem ByteSource.fill_of_no_answers {src : ByteSource} (unprepared : src.answers = []) {bytes : List Byte}
    (next : src.stream.take 64 = bytes) (h : bytes.length ≤ 64) :
    src.fill = (.data bytes h, { src with stream := src.stream.drop 64 }) := by
  subst next
  simp only [ByteSource.fill, unprepared]

/-- Settles O58, by the three answers a fill of the stream can give: a full block, a rest whose padding fits, and a
rest whose padding spills. -/
theorem readingReturnsTheBlocksOfThePaddedStream : Obligations.ReadingReturnsTheBlocksOfThePaddedStream := by
  intro s m q reading consumed len answers stream
  have rest_length : (m.drop (64 * q)).length = m.length - 64 * q := List.length_drop
  have left : s.source.stream.drop 64 = m.drop (64 * (q + 1)) := by rw [stream, List.drop_drop, Nat.mul_succ]
  by_cases whole : 64 * (q + 1) ≤ m.length
  · have full : ((m.drop (64 * q)).take 64).length = 64 := List.length_take_of_le (by omega)
    have fill := ByteSource.fill_of_no_answers answers (by rw [stream]) full.le
    have counted : s.core.len + 64#64 = BitVec.ofNat 64 (64 * (q + 1)) := by
      rw [len, Nat.mul_succ, BitVec.ofNat_add]
    refine ⟨_, exec_nextBlock_reading reading fill, ?_⟩
    rw [s.core.readStep_full full.le full]
    exact ⟨(blockOf_full whole).symm, rfl, left, fun _ => ⟨reading, counted⟩, fun short => by omega⟩
  · have short : (m.drop (64 * q)).length ≤ 63 := by omega
    have fill := ByteSource.fill_of_no_answers answers (by rw [stream, List.take_of_length_le (by omega)])
      (short.trans (by decide))
    have counted : s.core.len + BitVec.ofNat 64 (m.drop (64 * q)).length = BitVec.ofNat 64 m.length := by
      rw [len, ← BitVec.ofNat_add, rest_length, Nat.add_sub_cancel' consumed]
    refine ⟨_, exec_nextBlock_reading reading fill, ?_⟩
    by_cases fits : (m.drop (64 * q)).length ≤ 55
    · rw [s.core.readStep_fits _ fits, counted]
      exact ⟨(blockOf_fits consumed fits).symm, rfl, left, fun more => absurd more whole,
        fun _ => ⟨counted, fun _ => rfl, fun spills => by omega⟩⟩
    · have low : 56 ≤ (m.drop (64 * q)).length := by omega
      rw [s.core.readStep_spills _ low short, counted]
      exact ⟨(blockOf_spills consumed low short).symm, rfl, left, fun more => absurd more whole,
        fun _ => ⟨counted, fun fit => by omega,
          fun _ => ⟨rfl, (blockOf_succ_of_spills consumed low short).symm⟩⟩⟩

end Sys2Proof.Machine
end

section
/-! PROOFS. The Compression Engine's functions: the round functions, the schedule, the transform and the digest (R150 to
R170). -/

namespace Sys2Proof.Machine

/-! ## Round functions (R152 to R156) -/

/-- F lets x choose between y and z, bit by bit (R152). -/
theorem roundF_getLsbD (x y z : Word) (i : Nat) :
    (roundF x y z).getLsbD i = if x.getLsbD i then y.getLsbD i else z.getLsbD i := by
  by_cases hi : i < 32
  · rw [roundF, BitVec.getLsbD_or, BitVec.getLsbD_and, BitVec.getLsbD_and, BitVec.getLsbD_not]
    cases x.getLsbD i <;> simp [hi]
  · simp [BitVec.getLsbD_of_ge, not_lt.mp hi]

/-- G is F with z choosing between x and y (R153). -/
theorem roundG_eq_roundF (x y z : Word) : roundG x y z = roundF z x y := by
  rw [roundG, roundF, BitVec.and_comm x, BitVec.and_comm y]

/-- Settles O24: F and G choose by a bit, H and I are their operators on every bit, and the corner cases are the laws
of those operators at the constants 0 and all ones. -/
theorem roundFunctionsSelectBitByBit : Obligations.RoundFunctionsSelectBitByBit := by
  have ones : 0xFFFFFFFF#32 = BitVec.allOnes 32 := rfl
  have choosesFirst (y z : Word) : roundF 0xFFFFFFFF#32 y z = y := by
    rw [roundF, ones, BitVec.allOnes_and, BitVec.not_allOnes, BitVec.zero_and, BitVec.or_zero]
  have choosesSecond (y z : Word) : roundF 0x00000000#32 y z = z := by
    rw [roundF, BitVec.zero_and, BitVec.zero_or, BitVec.not_zero, BitVec.allOnes_and]
  refine ⟨fun x y z i hi => ⟨roundF_getLsbD x y z i, ?_, ?_, ?_⟩, fun y z => ⟨choosesFirst y z, choosesSecond y z⟩,
    fun x y => ⟨?_, ?_⟩, fun x z => ?_, fun x y => ?_, rfl⟩
  · rw [roundG_eq_roundF, roundF_getLsbD]
  · rw [roundH, BitVec.getLsbD_xor, BitVec.getLsbD_xor, Bool.xor_assoc]
  · simp [roundI, hi]
  · rw [roundG_eq_roundF, choosesFirst]
  · rw [roundG_eq_roundF, choosesSecond]
  · rw [roundH, BitVec.xor_self, BitVec.zero_xor]
  · rw [roundI, BitVec.not_zero, BitVec.or_allOnes, BitVec.xor_allOnes]

/-- The function of a step is its round's (R156). -/
theorem roundFn_of_round {j r : Nat} (round : j / 16 = r) : roundFn j = roundFn (16 * r) := by
  rw [roundFn, roundFn, round, Nat.mul_div_cancel_left r (by decide)]

/-- Settles O25: a step's function is its round's, and the three tables are listed step by step. -/
theorem scheduleIsTheTable : Obligations.ScheduleIsTheTable :=
  ⟨fun _ => ⟨fun _ => roundFn_of_round (r := 0) (by omega), fun _ _ => roundFn_of_round (r := 1) (by omega),
    fun _ _ => roundFn_of_round (r := 2) (by omega), fun _ _ => roundFn_of_round (r := 3) (by omega)⟩,
    by decide, by decide, by decide⟩

/-! ## The transform (R160 to R162) -/

/-- Four ladder steps bring every variable back to its role, updated in place (R161). -/
theorem inPlaceGroup_eq_ladderSteps (m : Nat) (q : Quad) (x : Block) :
    inPlaceGroup m q x =
      ladderStep (4 * m + 3) (ladderStep (4 * m + 2) (ladderStep (4 * m + 1) (ladderStep (4 * m) q x) x) x) x := by
  simp only [ladderStep, stepValue_eq]
  rfl

/-- The first n groups are the first 4n ladder steps. -/
theorem foldl_ladderStep_eq_inPlaceGroup (n : Nat) (q : Quad) (x : Block) :
    (List.range (4 * n)).foldl (fun w j => ladderStep j w x) q =
      (List.range n).foldl (fun w m => inPlaceGroup m w x) q := by
  induction n with
  | zero => rfl
  | succ n ih =>
    rw [List.range_succ (n := n), Nat.mul_succ]
    simp only [List.range_succ, List.foldl_append, ih, List.foldl_cons, List.foldl_nil, inPlaceGroup_eq_ladderSteps]

/-- Settles O26: the 64 steps of the transform are sixteen groups. -/
theorem compressionIsTheInPlaceLadder : Obligations.CompressionIsTheInPlaceLadder :=
  foldl_ladderStep_eq_inPlaceGroup 16

/-! ## The digest (R166, R170) -/

/-- Settles O20: the sixteen bytes are listed word by word, and each word's in order. -/
theorem digestBytesAreTheLittleEndianWords : Obligations.DigestBytesAreTheLittleEndianWords := by
  refine fun c => ⟨rfl, fun m => ?_⟩
  fin_cases m <;> rfl

/-- Settles O27: each known answer is evaluated. -/
theorem knownAnswersHold : Obligations.KnownAnswersHold :=
  ⟨by decide +kernel, by decide +kernel, by decide +kernel, by decide +kernel, by decide +kernel⟩

end Sys2Proof.Machine
end

section
/-! PROOFS. The completions of PROCESS_BLOCK and FINALIZE, and the engine's lifecycle (R162 to R167). -/

namespace Sys2Proof.Machine

/-! ## The two completions (R164, R165) -/

/-- Settles O35: the completion is `addBack` of the transform, field by field. -/
theorem processBlockAddsTheCompressionBack : Obligations.ProcessBlockAddsTheCompressionBack := by
  rintro s w rfl
  rfl

/-- Settles O36: FINALIZE's completion is this state, whatever the state before it. -/
theorem finalizeOnlySetsFinal : Obligations.FinalizeOnlySetsFinal :=
  fun _ => rfl

/-- With BUSY = 0, DO of a command that R100 and R101 accept is the completion of that command (R88, R104). -/
theorem doCommand_of_accepted {s : State} {i : Instr} (idle : s.core.busy = false)
    (faultFree : s.core.fault = false ∨ i = .init) (accepted : precondition i s.core = none) :
    doCommand i s = exec i (s.withCore (s.core.issue i)) := by
  rw [doCommand, cmdWrite_of_accepted idle faultFree accepted]
  exact coreTurn_of_pending rfl rfl

/-- An accepted FINALIZE sets FINAL (R165). -/
theorem doCommand_finalize {s : State} (idle : s.core.busy = false) (clear : s.core.fault = false)
    (isDone : s.core.pstate = .done) (empty : s.core.blkValid = false) :
    doCommand .finalize s = .next { s with core := { s.core with final := true, busy := false, pending := none } } :=
  doCommand_of_accepted idle (.inl clear) (precondition_eq_none.mpr ⟨nofun, nofun, fun _ => ⟨isDone, empty⟩⟩)

/-- Settles O37: the first FINALIZE leaves what the second one's acceptance asks, and FINAL is set already. -/
theorem finalizeIsIdempotent : Obligations.FinalizeIsIdempotent := by
  intro s idle clear isDone empty
  exact ⟨_, doCommand_finalize idle clear isDone empty, by simp [idle], doCommand_finalize rfl clear isDone empty⟩

/-! ## The lifecycle (R167) -/

/-- A NEXT_BLOCK completion leaves FINAL and the digest state alone, whatever the Byte Source answers (R121). -/
theorem CoreState.completed_nextBlock_engine (c : CoreState) (ans : FillAnswer) :
    (c.completed .nextBlock ans).final = c.final ∧ (c.completed .nextBlock ans).digestState = c.digestState := by
  cases hp : c.pstate with
  | reading =>
    rw [CoreState.completed_nextBlock_reading hp]
    refine ⟨?_, c.readStep_digestState ans⟩
    obtain ⟨-, eq⟩ | ⟨bytes, -, -, ⟨-, eq⟩ | ⟨-, eq⟩ | ⟨-, -, eq⟩⟩ := c.readStep_cases ans
    · rw [eq, CoreState.finish_final, CoreState.raise_final]
    · rw [eq]; rfl
    · rw [eq]; rfl
    · rw [eq]; rfl
  | emittingPadding => rw [CoreState.completed_nextBlock_emittingPadding hp]; exact ⟨rfl, rfl⟩
  | done => rw [CoreState.completed_nextBlock_done hp]; exact ⟨rfl, rfl⟩

/-- A step changes FINAL and the digest state only in the completion of a pending command or in a reset: INIT's and a
reset start afresh, PROCESS_BLOCK's keeps FINAL, and FINALIZE's keeps the digest state. -/
theorem step_engine_cases {s t : State} (hstep : step s = .next t) :
    (t.core.final = s.core.final ∧ t.core.digestState = s.core.digestState) ∨
    (t.core.final = false ∧ ((nextTurn s).1 = .reset ∨ ((nextTurn s).1 = .core ∧ s.core.pending = some .init))) ∨
    (s.core.pending = some .processBlock ∧ t.core.final = s.core.final) ∨
    ((nextTurn s).1 = .core ∧ s.core.pending = some .finalize ∧ t.core.final = true ∧
      t.core.digestState = s.core.digestState) := by
  by_cases kept : (t.core.final, t.core.digestState) = (s.core.final, s.core.digestState)
  · exact .inl (Prod.mk.inj kept)
  obtain ⟨turn, -, i, pending, core⟩ | ⟨turn, core⟩ :=
    step_change_cases (fun c => (c.final, c.digestState)) (fun _ _ _ _ _ => rfl) hstep kept
  · rw [core]
    cases i with
    | init => exact .inr (.inl ⟨rfl, .inr ⟨turn, pending⟩⟩)
    | nextBlock => exact .inl (s.core.completed_nextBlock_engine _)
    | processBlock => exact .inr (.inr (.inl ⟨pending, rfl⟩))
    | finalize => exact .inr (.inr (.inr ⟨turn, pending, rfl, rfl⟩))
  · rw [core]
    exact .inr (.inl ⟨rfl, .inl turn⟩)

/-- Settles O49: the pending command's accepted precondition says that FINALIZE has every block handed over, and that
PROCESS_BLOCK completes only before it. -/
theorem engineLifecycle : Obligations.EngineLifecycle := by
  intro s t inv hstep
  obtain ⟨final, digest⟩ | ⟨cleared, fresh⟩ | ⟨pending, final⟩ | ⟨turn, pending, set, digest⟩ := step_engine_cases hstep
  · exact ⟨fun before after => (nomatch before.symm.trans (final.symm.trans after)), fun _ _ => digest,
      fun before after => (nomatch before.symm.trans (final.symm.trans after))⟩
  · exact ⟨fun _ after => (nomatch cleared.symm.trans after), fun _ after => (nomatch cleared.symm.trans after),
      fun _ _ => fresh⟩
  · obtain ⟨-, processBlock, -⟩ := precondition_eq_none.mp (inv.core.accepted _ pending)
    have notFinal : s.core.final = false := (processBlock rfl).1
    exact ⟨fun _ after => (nomatch (final.trans notFinal).symm.trans after),
      fun before _ => (nomatch notFinal.symm.trans before), fun before _ => (nomatch notFinal.symm.trans before)⟩
  · obtain ⟨-, -, finalize⟩ := precondition_eq_none.mp (inv.core.accepted _ pending)
    obtain ⟨isDone, empty⟩ := finalize rfl
    exact ⟨fun _ _ => ⟨turn, pending, isDone, empty, digest⟩, fun _ _ => digest,
      fun _ after => (nomatch set.symm.trans after)⟩

end Sys2Proof.Machine
end

section
/-! PROOFS. HASH at the level of the CORE: from any contract-keeping Byte Source its loop processes the blocks of the
padded stream in order, and the digest state it leaves is the stream's (R59, R88, R137, R170). -/

namespace Sys2Proof.Machine

/-! ## The Byte Source's answers are the stream, 64 bytes at a time (R59) -/

/-- A source that keeps the contract answers as a source that has only the bytes it delivers: the next 64 of them, or
all where there are fewer. -/
theorem ByteSource.fill_of_contract {src : ByteSource} {rest : List Byte}
    (contract : keepsContract src.answers src.stream) (delivers : deliveredBytes src.answers src.stream = rest) :
    ∃ h src', src.fill = (.data (rest.take 64) h, src') ∧ keepsContract src'.answers src'.stream ∧
      deliveredBytes src'.answers src'.stream = rest.drop 64 := by
  obtain ⟨bytes, h, src', fill⟩ : ∃ bytes h src', src.fill = (.data bytes h, src') := by
    obtain ⟨a, later, answers, fill⟩ | ⟨-, h, fill⟩ := src.fill_cases
    · rw [answers] at contract
      cases a with
      | data bytes h => exact ⟨bytes, h, _, fill⟩
      | error => exact contract.elim
    · exact ⟨_, h, _, fill⟩
  obtain ⟨inOrder, lasts⟩ := fillsDeliverTheStreamInOrder src src' bytes h fill
  obtain ⟨contract', last⟩ := lasts contract
  obtain rfl := delivers.symm.trans inOrder
  by_cases full : bytes.length = 64
  · rw [List.take_left' full, List.drop_left' full]
    exact ⟨h, src', fill, contract', rfl⟩
  · have nothingLeft := last (by omega)
    rw [nothingLeft, List.append_nil, List.take_of_length_le h, List.drop_of_length_le h]
    exact ⟨h, src', fill, contract', nothingLeft⟩

/-! ## Where the Producer stands (R132, R136) -/

/-- The Producer has returned the first q blocks of the padded stream m, and the Byte Source delivers the rest of m. -/
inductive ProducerAt (m : List Byte) (q : Nat) (c : CoreState) (src : ByteSource) : Prop where
  | reading (state : c.pstate = .reading) (consumed : 64 * q ≤ m.length) (len : c.len = BitVec.ofNat 64 (64 * q))
      (contract : keepsContract src.answers src.stream)
      (delivers : deliveredBytes src.answers src.stream = m.drop (64 * q))
  | emitting (state : c.pstate = .emittingPadding) (last : blockCount m.length = q + 1)
      (len : c.len = BitVec.ofNat 64 m.length) (buffered : c.padbuf = blockOf m q)
  | done (state : c.pstate = .done) (all : blockCount m.length = q) (len : c.len = BitVec.ofNat 64 m.length)

/-- The Producer's position reads only PSTATE, LEN and PADBUF. -/
theorem ProducerAt.congr {m : List Byte} {q : Nat} {c d : CoreState} {src : ByteSource} (h : ProducerAt m q c src)
    (pstate : d.pstate = c.pstate) (len : d.len = c.len) (padbuf : d.padbuf = c.padbuf) : ProducerAt m q d src := by
  cases h with
  | reading state consumed counted contract delivers =>
    exact .reading (pstate.trans state) consumed (len.trans counted) contract delivers
  | emitting state last counted buffered =>
    exact .emitting (pstate.trans state) last (len.trans counted) (padbuf.trans buffered)
  | done state all counted => exact .done (pstate.trans state) all (len.trans counted)

/-- Once every block is returned the Producer is Done, with the whole stream counted (R132, R136). -/
theorem ProducerAt.done_of_all {m : List Byte} {c : CoreState} {src : ByteSource}
    (h : ProducerAt m (blockCount m.length) c src) : c.pstate = .done ∧ c.len = BitVec.ofNat 64 m.length := by
  have bound := (blockCount_bounds m.length).1
  cases h with
  | reading _ consumed => omega
  | emitting _ last => omega
  | done state _ len => exact ⟨state, len⟩

/-- CORE c holds block q of the padded stream m, just returned (R27, R28), and the Producer stands after it. -/
structure BlockReturned (m : List Byte) (q : Nat) (c : CoreState) (src : ByteSource) : Prop where
  valid : c.blkValid = true
  block : c.blk = blockOf m q
  notExhausted : c.exhausted = false
  producer : ProducerAt m (q + 1) c src

/-- A read step with data raises no fault, and the block it returns ends a report of exhaustion (R28, R122). -/
theorem CoreState.readStep_data_flags (c : CoreState) {bytes : List Byte} (h : bytes.length ≤ 64) :
    (c.readStep (.data bytes h)).fault = c.fault ∧ (c.readStep (.data bytes h)).exhausted = false := by
  obtain ⟨isError, -⟩ | ⟨_, _, -, ⟨-, eq⟩ | ⟨-, eq⟩ | ⟨-, -, eq⟩⟩ := c.readStep_cases (.data bytes h)
  · cases isError
  all_goals rw [eq]; exact ⟨rfl, rfl⟩

/-- In Reading, the read step with the stream's next bytes returns block q and moves the Producer on. This is the rule
of a source that has only the stream, `readingReturnsTheBlocksOfThePaddedStream`, for every source. -/
theorem CoreState.readStep_of_stream {c : CoreState} {m : List Byte} {q : Nat} {src' : ByteSource}
    (reading : c.pstate = .reading) (consumed : 64 * q ≤ m.length) (len : c.len = BitVec.ofNat 64 (64 * q))
    (h : ((m.drop (64 * q)).take 64).length ≤ 64) (contract : keepsContract src'.answers src'.stream)
    (delivers : deliveredBytes src'.answers src'.stream = m.drop (64 * (q + 1))) :
    BlockReturned m q (c.readStep (.data ((m.drop (64 * q)).take 64) h)).finish src' := by
  obtain ⟨t, ht, block, valid, -, more, last⟩ := readingReturnsTheBlocksOfThePaddedStream
    { State.reset with core := c, source := ⟨[], m.drop (64 * q)⟩ } m q reading consumed len rfl rfl
  rw [exec_nextBlock_reading reading (ByteSource.fill_of_no_answers rfl rfl h)] at ht
  obtain rfl := Host.Outcome.next.inj ht
  refine ⟨valid, block, (c.readStep_data_flags h).2, ?_⟩
  by_cases whole : 64 * (q + 1) ≤ m.length
  · obtain ⟨state, counted⟩ := more whole
    exact .reading state whole counted contract delivers
  · obtain ⟨counted, fits, spills⟩ := last (by omega)
    by_cases fit : m.length % 64 ≤ 55
    · exact .done (fits fit) (by rw [blockCount, if_pos fit]; omega) counted
    · obtain ⟨state, buffered⟩ := spills (by omega)
      exact .emitting state (by rw [blockCount, if_neg fit]; omega) counted buffered

/-- While a block is left, the completion of NEXT_BLOCK returns it without a fault (R121). -/
theorem ProducerAt.completed_nextBlock {m : List Byte} {q : Nat} {c : CoreState} {src : ByteSource}
    (h : ProducerAt m q c src) (left : q < blockCount m.length) :
    (c.completed .nextBlock src.fill.1).fault = c.fault ∧
    BlockReturned m q (c.completed .nextBlock src.fill.1) (if c.asks .nextBlock then src.fill.2 else src) := by
  cases h with
  | reading state consumed len contract delivers =>
    obtain ⟨bound, src', fill, contract', delivers'⟩ := ByteSource.fill_of_contract contract delivers
    rw [List.drop_drop, ← Nat.mul_succ] at delivers'
    rw [if_pos (CoreState.asks_iff.mpr ⟨rfl, state⟩), fill, CoreState.completed_nextBlock_reading state]
    exact ⟨(c.readStep_data_flags bound).1,
      CoreState.readStep_of_stream state consumed len bound contract' delivers'⟩
  | emitting state last len buffered =>
    rw [CoreState.completed_nextBlock_emittingPadding state]
    exact ⟨rfl, rfl, buffered, rfl, .done rfl last len⟩
  | done _ all => omega

/-! ## The loop of HASH (R88, R170) -/

/-- The digest state after the first q blocks of a stream (R170). -/
def digestAfter (m : List Byte) (q : Nat) : Quad :=
  (List.range q).foldl (fun S k => addBack S (compress S (blockOf m k))) initialDigest

theorem digestAfter_succ (m : List Byte) (q : Nat) :
    digestAfter m (q + 1) = addBack (digestAfter m q) (compress (digestAfter m q) (blockOf m q)) := by
  simp only [digestAfter, List.range_succ, List.foldl_append, List.foldl_cons, List.foldl_nil]

/-- A fault-free computation in progress: the CORE is idle and the digest state counts the first q blocks of m. -/
structure Hashing (m : List Byte) (q : Nat) (s : State) : Prop where
  idle : s.core.busy = false
  clear : s.core.fault = false
  notFinal : s.core.final = false
  digest : s.core.digestState = digestAfter m q

/-- HASH at its label Lh: no block waits, and the Producer has returned those that are processed. -/
structure AtLoop (m : List Byte) (q : Nat) (s : State) : Prop extends Hashing m q s where
  empty : s.core.blkValid = false
  producer : ProducerAt m q s.core s.source

/-- HASH after NEXT_BLOCK: block q waits for PROCESS_BLOCK. -/
structure HoldingBlock (m : List Byte) (q : Nat) (s : State) : Prop extends Hashing m q s where
  returned : BlockReturned m q s.core s.source

/-- HASH at its end: FINAL = 1 without a fault, H_A..H_D hold the digest of m and LEN its byte count. -/
structure Hashed (m : List Byte) (s : State) : Prop where
  digest : s.core.digestState = digestStateOf m
  final : s.core.final = true
  clear : s.core.fault = false
  idle : s.core.busy = false
  len : s.core.len = BitVec.ofNat 64 m.length

/-- INIT starts the computation at block 0, whatever fault stood (R105). -/
theorem doCommand_init_atLoop {s : State} {m : List Byte} (idle : s.core.busy = false)
    (contract : keepsContract s.source.answers s.source.stream)
    (delivers : deliveredBytes s.source.answers s.source.stream = m) :
    ∃ t, doCommand .init s = .next t ∧ AtLoop m 0 t :=
  ⟨_, doCommand_of_accepted idle (.inr rfl) rfl,
    { idle := rfl, clear := rfl, notFinal := rfl, digest := rfl, empty := rfl,
      producer := .reading rfl (Nat.zero_le _) rfl contract delivers }⟩

section Loop

variable {m : List Byte} {q : Nat} {s : State}

/-- DO NEXT_BLOCK at Lh is accepted (R101). -/
theorem AtLoop.doCommand_nextBlock (h : AtLoop m q s) :
    doCommand .nextBlock s = exec .nextBlock (s.withCore (s.core.issue .nextBlock)) :=
  doCommand_of_accepted h.idle (.inl h.clear) (precondition_eq_none.mpr ⟨fun _ => h.empty, nofun, nofun⟩)

/-- While a block is left, NEXT_BLOCK returns it. -/
theorem AtLoop.nextBlock_returns (h : AtLoop m q s) (left : q < blockCount m.length) :
    ∃ t, doCommand .nextBlock s = .next t ∧ HoldingBlock m q t := by
  have producer : ProducerAt m q (s.core.issue .nextBlock) s.source := h.producer.congr rfl rfl rfl
  obtain ⟨final, digest⟩ := (s.core.issue .nextBlock).completed_nextBlock_engine s.source.fill.1
  obtain ⟨fault, returned⟩ := producer.completed_nextBlock left
  exact ⟨_, h.doCommand_nextBlock.trans (exec_eq _ _),
    { idle := (CoreState.completed_idle _ _ _).1
      clear := fault.trans h.clear
      notFinal := final.trans h.notFinal
      digest := digest.trans h.digest
      returned := returned }⟩

/-- PROCESS_BLOCK counts the waiting block into the digest state, and the loop is back at Lh (R164). -/
theorem HoldingBlock.processBlock_loops (h : HoldingBlock m q s) :
    ∃ t, doCommand .processBlock s = .next t ∧ AtLoop m (q + 1) t := by
  have accepted : precondition .processBlock s.core = none :=
    precondition_eq_none.mpr ⟨nofun, fun _ => ⟨h.notFinal, h.returned.valid⟩, nofun⟩
  refine ⟨_, doCommand_of_accepted h.idle (.inl h.clear) accepted,
    { idle := rfl, clear := h.clear, notFinal := h.notFinal, digest := ?_, empty := rfl
      producer := h.returned.producer.congr rfl rfl rfl }⟩
  rw [digestAfter_succ, ← h.digest, ← h.returned.block]
  rfl

/-- With every block processed, NEXT_BLOCK reports exhaustion and FINALIZE ends the computation (R130, R165). -/
theorem AtLoop.finalizes (h : AtLoop m (blockCount m.length) s) :
    ∃ u t, doCommand .nextBlock s = .next u ∧ u.core.fault = false ∧ u.core.exhausted = true ∧
      doCommand .finalize u = .next t ∧ Hashed m t := by
  obtain ⟨isDone, len⟩ := h.producer.done_of_all
  exact ⟨_, _, h.doCommand_nextBlock.trans (nextBlockReportsExhaustion _ isDone), h.clear, rfl,
    doCommand_finalize rfl h.clear isDone h.empty,
    { digest := h.digest, final := rfl, clear := h.clear, idle := rfl, len := len }⟩

/-- From Lh, with fuel for the blocks left and the report of exhaustion, the loop ends with the digest. -/
theorem AtLoop.hashLoop_ends {fuel : Nat} (h : AtLoop m q s) (within : q ≤ blockCount m.length)
    (enough : blockCount m.length < q + fuel) : ∃ t, hashLoop fuel s = .next t ∧ Hashed m t := by
  induction fuel generalizing q s with
  | zero => omega
  | succ fuel ih =>
    obtain left | rfl := within.lt_or_eq
    · obtain ⟨u, next, holding⟩ := h.nextBlock_returns left
      obtain ⟨v, process, again⟩ := holding.processBlock_loops
      obtain ⟨t, loop, hashed⟩ := ih again left (by omega)
      refine ⟨t, ?_, hashed⟩
      simp only [hashLoop, andThen, next, holding.clear, holding.returned.notExhausted, process, loop,
        Bool.false_eq_true, if_false]
    · obtain ⟨u, t, next, clear, exhausted, finalize, hashed⟩ := h.finalizes
      refine ⟨t, ?_, hashed⟩
      simp only [hashLoop, andThen, next, clear, exhausted, finalize, Bool.false_eq_true, if_false, if_true]

end Loop

/-- The digest bytes are the digest state's (R166). -/
theorem Hashed.digest_bytes {m : List Byte} {t : State} (h : Hashed m t) : t.core.digest = digestOf m := by
  rw [digestOf, ← h.digest]
  rfl

/-- The blocks of a stream of L bytes are fewer than the L/64 + 3 times HASH's loop may be entered (R136). -/
theorem blockCount_lt (L : Nat) : blockCount L < L / 64 + 3 := by
  unfold blockCount
  split <;> omega

/-- Settles O59: INIT brings HASH to its loop at block 0, and the loop has fuel for every block and the report of
exhaustion. -/
theorem hashCommandsComputeTheDigest : Obligations.HashCommandsComputeTheDigest := by
  intro s m idle contract delivers
  obtain ⟨u, init, start⟩ := doCommand_init_atLoop idle contract delivers
  obtain ⟨t, loop, hashed⟩ := start.hashLoop_ends (fuel := m.length / 64 + 3) (Nat.zero_le _)
    (by rw [Nat.zero_add]; exact blockCount_lt m.length)
  refine ⟨t, ?_, hashed.digest, hashed.digest_bytes, hashed.final, hashed.clear, hashed.idle, hashed.len⟩
  rw [hashCommands, init]
  exact loop

end Sys2Proof.Machine
end

section
/-! PROOFS. Exceptions: which CMD write raises which fault, when a step enters a fault or leaves it, and that instances
share nothing (R200 to R220). -/

namespace Sys2Proof.Machine

/-! ## The faults of a CMD write (R203 to R208) -/

section Rejected

variable {c : CoreState} (clear : c.fault = false)
include clear

/-- While BUSY = 1 the word is not looked at (R208). -/
theorem cmdWrite_raises_of_busy (busy : c.busy = true) (v : Word) : cmdWrite v c = c.raise .cmdWhileBusy := by
  simp [cmdWrite, busy, clear]

theorem cmdWrite_raises_of_illegal (idle : c.busy = false) {v : Word} {why : IllegalWord}
    (illegal : decode v = .illegal why) : cmdWrite v c = c.raise .illegalCmd := by
  simp [cmdWrite, idle, clear, illegal]

/-- A command out of order raises the fault its precondition answers (R101, R204 to R207). -/
theorem cmdWrite_raises_of_precondition (idle : c.busy = false) {i : Instr} {f : FaultCode}
    (rejected : precondition i c = some f) : cmdWrite (encode i) c = c.raise f := by
  simp [cmdWrite, idle, clear, decode_encode, rejected]

end Rejected

/-- A first fault raised by the write of CMD changes FAULT and FCODE of the whole machine, and nothing else. -/
theorem busWrite_of_raise {s : State} {v : Word} {f : FaultCode} (clear : s.core.fault = false)
    (raises : cmdWrite v s.core = s.core.raise f) :
    busWrite 0x00 v s = some { s with core := { s.core with fault := true, fcode := f.code } } :=
  congrArg (fun c => some (s.withCore c)) (raises.trans (CoreState.raise_of_clear clear f))

/-- Settles O8: BUSY and PENDING are not touched, so the Core's turn is still the pending command's. -/
theorem writeWhileBusyRaisesCmdWhileBusy : Obligations.WriteWhileBusyRaisesCmdWhileBusy :=
  fun _ v busy clear => ⟨_, busWrite_of_raise clear (cmdWrite_raises_of_busy clear busy v), rfl,
    fun _ pending => coreTurn_of_pending busy pending⟩

/-- Settles O10: a word that is no command's is decoded as ILLEGAL. -/
theorem illegalWordRaisesIllegalCmd : Obligations.IllegalWordRaisesIllegalCmd := by
  intro s v idle clear noCommand
  obtain ⟨why, illegal⟩ : ∃ why, decode v = .illegal why :=
    decode_illegal_iff.mpr fun ⟨i, named⟩ => noCommand i (eq_encode_of_decode named)
  exact busWrite_of_raise clear (cmdWrite_raises_of_illegal clear idle illegal)

/-- Settles O11: each clause is what the command's precondition answers, PROCESS_BLOCK's looking at FINAL first. -/
theorem outOfOrderCommandsRaiseTheirFaults : Obligations.OutOfOrderCommandsRaiseTheirFaults := by
  intro s idle clear
  have raises {i : Instr} {f : FaultCode} (rejected : precondition i s.core = some f) :
      busWrite 0x00 (encode i) s = some { s with core := { s.core with fault := true, fcode := f.code } } :=
    busWrite_of_raise clear (cmdWrite_raises_of_precondition clear idle rejected)
  refine ⟨fun valid => raises (i := .nextBlock) (f := .nextWhileBlockPending) (if_pos valid),
    fun notFinal empty => raises (i := .processBlock) (f := .processWithoutBlock) ?_,
    fun final => raises (i := .processBlock) (f := .processAfterFinalize) (if_pos final),
    fun early => raises (i := .finalize) (f := .finalizeEarly) (if_pos early)⟩
  simp [precondition, notFinal, empty]

/-! ## Entering and leaving a fault (R201, R212, R214) -/

/-- A precondition answers one of the four faults of an out-of-order command (R101). -/
theorem precondition_ne_ioReadFailed (i : Instr) (c : CoreState) : precondition i c ≠ some .ioReadFailed := by
  cases i with
  | init => exact nofun
  | nextBlock => cases hv : c.blkValid <;> simp [precondition, hv]
  | processBlock => cases hf : c.final <;> cases hv : c.blkValid <;> simp [precondition, hf, hv]
  | finalize => cases hp : c.pstate <;> cases hv : c.blkValid <;> simp [precondition, hp, hv]

/-- Only IO_READ_FAILED has the code 7 (R202). -/
theorem FaultCode.code_le_six {f : FaultCode} (notRead : f ≠ .ioReadFailed) : f.code.toNat ≤ 6 := by
  cases f with
  | ioReadFailed => exact absurd rfl notRead
  | illegalCmd | nextWhileBlockPending | processWithoutBlock | processAfterFinalize | finalizeEarly
  | cmdWhileBusy => decide

/-- With FAULT = 1 a CMD write is discarded or issues INIT (R102). -/
theorem cmdWrite_of_fault {c : CoreState} (latched : c.fault = true) (v : Word) :
    cmdWrite v c = c ∨ cmdWrite v c = c.issue .init := by
  obtain ⟨-, eq⟩ | ⟨clear, -⟩ | ⟨-, i, -, faultFree, -, eq⟩ := cmdWrite_cases v c
  · exact .inl eq
  · exact absurd (clear.symm.trans latched) nofun
  · obtain rfl : i = .init := faultFree.resolve_left (by simp [latched])
    exact .inr eq

/-- A CMD write leaves the latch alone, or it raises a first fault, which is never the read failure. -/
theorem cmdWrite_latch_cases (v : Word) (c : CoreState) :
    ((cmdWrite v c).fault = c.fault ∧ (cmdWrite v c).fcode = c.fcode) ∨
    (c.fault = false ∧ ∃ f, f ≠ .ioReadFailed ∧ cmdWrite v c = c.raise f) := by
  cases latch : c.fault with
  | true =>
    obtain eq | eq := cmdWrite_of_fault latch v
    all_goals exact .inl (by rw [eq]; exact ⟨latch, rfl⟩)
  | false =>
    cases busy : c.busy with
    | true => exact .inr ⟨rfl, .cmdWhileBusy, nofun, cmdWrite_raises_of_busy latch busy v⟩
    | false =>
      cases named : decode v with
      | illegal why => exact .inr ⟨rfl, .illegalCmd, nofun, cmdWrite_raises_of_illegal latch busy named⟩
      | command i =>
        obtain rfl := eq_encode_of_decode named
        cases pre : precondition i c with
        | none => exact .inl (by rw [cmdWrite_of_accepted busy (.inl latch) pre]; exact ⟨latch, rfl⟩)
        | some f =>
          exact .inr ⟨rfl, f, fun isRead => precondition_ne_ioReadFailed i c (isRead ▸ pre),
            cmdWrite_raises_of_precondition latch busy pre⟩

/-- A completion leaves the latch alone, but that INIT clears it and a failed read raises IO_READ_FAILED (R105,
R209). -/
theorem CoreState.completed_latch_cases (c : CoreState) (i : Instr) (ans : FillAnswer) :
    ((c.completed i ans).fault = c.fault ∧ (c.completed i ans).fcode = c.fcode) ∨
    i = .init ∨
    (i = .nextBlock ∧ c.pstate = .reading ∧ ans = .error ∧
      c.completed i ans = (c.raise .ioReadFailed).finish) := by
  cases i with
  | init => exact .inr (.inl rfl)
  | nextBlock =>
    cases hp : c.pstate with
    | reading =>
      rw [CoreState.completed_nextBlock_reading hp]
      obtain ⟨isError, eq⟩ | ⟨_, _, -, ⟨-, eq⟩ | ⟨-, eq⟩ | ⟨-, -, eq⟩⟩ := c.readStep_cases ans
      · exact .inr (.inr ⟨rfl, rfl, isError, congrArg _ eq⟩)
      all_goals exact .inl (by rw [eq]; exact ⟨rfl, rfl⟩)
    | emittingPadding => exact .inl (by rw [CoreState.completed_nextBlock_emittingPadding hp]; exact ⟨rfl, rfl⟩)
    | done => exact .inl (by rw [CoreState.completed_nextBlock_done hp]; exact ⟨rfl, rfl⟩)
  | processBlock => exact .inl ⟨rfl, rfl⟩
  | finalize => exact .inl ⟨rfl, rfl⟩

/-- Everything a step can do to FAULT and FCODE. -/
inductive LatchEffect (s t : State) : Prop where
  | kept (fault : t.core.fault = s.core.fault) (fcode : t.core.fcode = s.core.fcode)
  /-- The ways back (R214). -/
  | cleared (fault : t.core.fault = false) (fcode : t.core.fcode = 0)
      (way : (nextTurn s).1 = .reset ∨
        ((nextTurn s).1 = .core ∧ s.core.busy = true ∧ s.core.pending = some .init))
  /-- A first fault at a CMD write. -/
  | rejected (f : FaultCode) (clear : s.core.fault = false) (turn : (nextTurn s).1 = .host)
      (notRead : f ≠ .ioReadFailed) (source : t.source = s.source)
      (core : t.core = { s.core with fault := true, fcode := f.code })
  /-- A first fault at the completion of a fill. -/
  | readFailed (clear : s.core.fault = false) (turn : (nextTurn s).1 = .core) (busy : s.core.busy = true)
      (pending : s.core.pending = some .nextBlock) (reading : s.core.pstate = .reading)
      (answer : s.source.fill.1 = .error)
      (core : t.core = { s.core with fault := true, fcode := 0x7#4, busy := false, pending := none })

theorem step_latchEffect {s t : State} (hstep : step s = .next t) : LatchEffect s t := by
  cases step_turnEffect hstep with
  | host turn _ effect =>
    cases effect with
    | idle core _ => exact .kept (congrArg _ core) (congrArg _ core)
    | stream _ _ core _ => exact .kept (congrArg _ core) (congrArg _ core)
    | write v core source =>
      obtain ⟨fault, fcode⟩ | ⟨clear, f, notRead, raises⟩ := cmdWrite_latch_cases v s.core
      · exact .kept (core ▸ fault) (core ▸ fcode)
      · exact .rejected f clear turn notRead source (core.trans (raises.trans (CoreState.raise_of_clear clear f)))
  | completion i turn busy pending eq =>
    have core : t.core = s.core.completed i s.source.fill.1 := congrArg State.core eq
    obtain ⟨fault, fcode⟩ | rfl | ⟨rfl, reading, answer, raises⟩ := s.core.completed_latch_cases i s.source.fill.1
    · exact .kept (core ▸ fault) (core ▸ fcode)
    · exact .cleared (by rw [core]; rfl) (by rw [core]; rfl) (.inr ⟨turn, busy, pending⟩)
    · rw [raises] at core
      cases latched : s.core.fault with
      | true =>
        rw [CoreState.raise_of_fault latched] at core
        exact .kept (by rw [core]; rfl) (by rw [core]; rfl)
      | false =>
        rw [CoreState.raise_of_clear latched] at core
        exact .readFailed latched turn busy pending reading answer core
  | empty _ _ _ eq => exact .kept (by rw [eq]; rfl) (by rw [eq]; rfl)
  | idle _ _ eq => exact .kept (by rw [eq]) (by rw [eq])
  | reset turn eq =>
    have core : t.core = CoreState.reset := by rw [eq, hardwareReset_core]
    exact .cleared (by rw [core]; rfl) (by rw [core]; rfl) (.inl turn)

/-- Settles O44: with FAULT = 1 a step can enter no fault, so it keeps the latch or clears it. -/
theorem faultIsStickyUntilInitOrReset : Obligations.FaultIsStickyUntilInitOrReset := by
  intro s t latched hstep
  cases step_latchEffect hstep with
  | kept fault fcode => exact .inl ⟨fault.trans latched, fcode⟩
  | cleared fault fcode way => exact .inr ⟨fault, fcode, way⟩
  | rejected _ clear => exact absurd (clear.symm.trans latched) nofun
  | readFailed clear => exact absurd (clear.symm.trans latched) nofun

/-- Settles O45: a fault is entered only by a rejected CMD write, whose code is not 7, or by a failed read. -/
theorem faultEntryIsPrecise : Obligations.FaultEntryIsPrecise := by
  intro s t clear hstep entered
  cases step_latchEffect hstep with
  | kept fault => exact absurd (clear.symm.trans (fault.symm.trans entered)) nofun
  | cleared fault => exact absurd (fault.symm.trans entered) nofun
  | rejected f _ turn notRead source core =>
    rw [core]
    exact .inl ⟨turn, source, rfl, f.code_range.1, FaultCode.code_le_six notRead⟩
  | readFailed _ turn busy pending reading answer core =>
    exact .inr ⟨turn, busy, pending, reading, answer, core⟩

/-! ## The abandoned computation (R102, R213) -/

/-- Settles O46: with BUSY = 0 the Core has nothing to complete, and a host statement at most writes CMD or is SRC. -/
theorem faultedComputationIsAbandoned : Obligations.FaultedComputationIsAbandoned := by
  intro s t latched idle hstep notReset
  cases step_turnEffect hstep with
  | host _ _ effect =>
    cases effect with
    | idle core source => exact ⟨.inl core, .inl source⟩
    | write v core source =>
      rw [core]
      exact ⟨cmdWrite_of_fault latched v, .inl source⟩
    | stream bytes at_pc core source => exact ⟨.inl core, .inr ⟨bytes, at_pc, source⟩⟩
  | completion _ _ busy => exact absurd (idle.symm.trans busy) nofun
  | empty _ busy => exact absurd (idle.symm.trans busy) nofun
  | idle _ _ eq => exact ⟨.inl (by rw [eq]), .inl (by rw [eq])⟩
  | reset turn => exact absurd turn notReset

/-! ## Several instances (R220) -/

/-- Where the system has no machine k, the step of k changes nothing. -/
theorem stepInstance_of_none {k : Nat} {sys : List State} (absent : sys[k]? = none) :
    stepInstance k sys = .next sys := by
  simp only [stepInstance, absent]

/-- A state put in the place of machine k stands there, where the system has a machine k. -/
theorem getElem?_set_of_some {k : Nat} {sys : List State} {s : State} (present : sys[k]? = some s) (t : State) :
    (sys.set k t)[k]? = some t :=
  List.getElem?_set_self (List.getElem?_eq_some_iff.mp present).1

/-- Settles O52: a step of machine k is found from place k alone and replaces place k alone. -/
theorem instancesShareNoState : Obligations.InstancesShareNoState := by
  refine ⟨fun k sys s t present hstep => ⟨_, stepInstance_next present hstep, getElem?_set_of_some present t⟩,
    fun k j sys sys' moved other => ?_, fun k sys₁ sys₂ sys₁' same moved => ?_,
    fun k sys sys' moved => stepInstance_places moved⟩
  · obtain ⟨s, t, -, -, rfl⟩ | ⟨-, rfl⟩ := stepInstance_cases moved
    · exact List.getElem?_set_ne other.symm
    · rfl
  · obtain ⟨s, t, present, hstep, rfl⟩ | ⟨absent, rfl⟩ := stepInstance_cases moved
    · have present₂ : sys₂[k]? = some s := same.symm.trans present
      refine ⟨_, stepInstance_next present₂ hstep, ?_⟩
      rw [getElem?_set_of_some present₂, getElem?_set_of_some present]
    · exact ⟨_, stepInstance_of_none (same.symm.trans absent), same.symm⟩

end Sys2Proof.Machine
end

section
/-! PROOFS. Hardware reset (R230, R231), and the order in which the commands of a fault-free computation complete
(R237). -/

namespace Sys2Proof.Machine

/-! ## Hardware reset (R230, R231) -/

/-- The reset event takes no turn off the schedule. -/
theorem hardwareReset_sched (s : State) : (hardwareReset s).sched = s.sched := by
  unfold hardwareReset
  split <;> rfl

/-- Settles O39: the step is the reset event, which moves the Byte Source only while a fill is outstanding. -/
theorem resetFromAnyState : Obligations.ResetFromAnyState := by
  intro s rest sched
  refine ⟨hardwareReset { s with sched := rest }, _, step_of_sched sched, initStartsAFreshComputation s,
    hardwareReset_core _, hardwareReset_core _, hardwareReset_host _, hardwareReset_sched _, fun noFill => ?_⟩
  exact hardwareReset_source (Bool.eq_false_iff.mpr fun outstanding => noFill (CoreState.fillPending_iff.mp outstanding))

/-! ## A DO that leaves FAULT = 0 (R88, R100, R104) -/

/-- With BUSY = 0 the Core's turn is not enabled (R104). -/
theorem coreTurn_of_idle {s : State} (idle : s.core.busy = false) : coreTurn s = .next s := by
  simp [coreTurn, idle]

/-- From BUSY = 0, a DO that leaves FAULT = 0 is the completion of an accepted command: a CMD write that is discarded or
raises a fault leaves FAULT = 1 and nothing to complete. -/
theorem doCommand_of_clear {i : Instr} {s t : State} (idle : s.core.busy = false) (next : doCommand i s = .next t)
    (clear : t.core.fault = false) :
    precondition i s.core = none ∧ t.core = (s.core.issue i).completed i s.source.fill.1 := by
  have notRejected (stillIdle : (cmdWrite (encode i) s.core).busy = false) :
      (cmdWrite (encode i) s.core).fault ≠ true := by
    rw [doCommand, coreTurn_of_idle stillIdle] at next
    obtain rfl := Host.Outcome.next.inj next
    exact Bool.eq_false_iff.mp clear
  obtain ⟨latched, eq⟩ | ⟨-, f, eq⟩ | ⟨-, j, named, faultFree, accepted, -⟩ := cmdWrite_cases (encode i) s.core
  · rw [eq] at notRejected
    exact absurd latched (notRejected idle)
  · rw [eq, CoreState.raise_busy, CoreState.raise_fault] at notRejected
    exact absurd rfl (notRejected idle)
  · obtain rfl := Decoded.command.inj ((decode_encode i).symm.trans named)
    rw [doCommand_of_accepted idle faultFree accepted, exec_eq] at next
    obtain rfl := Host.Outcome.next.inj next
    exact ⟨accepted, rfl⟩

/-- The first command of a fault-free sequence completes without a fault, and the others go on from there. -/
theorem completedCommands_cons {i : Instr} {rest : List Instr} {s : State} {done : List Completed}
    (all : completedCommands (i :: rest) s = some done) :
    ∃ t later, doCommand i s = .next t ∧ t.core.fault = false ∧ completedCommands rest t = some later ∧
      done = completedAs i t :: later := by
  simp only [completedCommands] at all
  split at all
  · rename_i t next
    split at all
    · cases all
    · obtain ⟨later, goesOn, eq⟩ := Option.map_eq_some_iff.mp all
      exact ⟨t, later, next, Bool.eq_false_iff.mpr ‹_›, goesOn, eq.symm⟩
  · cases all
  · cases all

/-! ## The order of commands (R237) -/

/-- A NEXT_BLOCK completion that leaves FAULT = 0 returns a block with EXHAUSTED = 0, or, in Done, it reports exhaustion
(R121, R237). -/
theorem CoreState.completed_nextBlock_of_clear {c : CoreState} {ans : FillAnswer}
    (clear : (c.completed .nextBlock ans).fault = false) :
    (c.pstate ≠ .done ∧ (c.completed .nextBlock ans).exhausted = false ∧
      (c.completed .nextBlock ans).blkValid = true) ∨
    (c.pstate = .done ∧ c.completed .nextBlock ans = c.reportExhausted.finish) := by
  cases hp : c.pstate with
  | reading =>
    rw [CoreState.completed_nextBlock_reading hp] at clear ⊢
    obtain ⟨-, eq⟩ | ⟨_, _, -, ⟨-, eq⟩ | ⟨-, eq⟩ | ⟨-, -, eq⟩⟩ := c.readStep_cases ans
    · rw [eq, CoreState.finish_fault, CoreState.raise_fault] at clear
      cases clear
    all_goals exact .inl ⟨nofun, by rw [eq]; exact ⟨rfl, rfl⟩⟩
  | emittingPadding =>
    rw [CoreState.completed_nextBlock_emittingPadding hp]
    exact .inl ⟨nofun, rfl, rfl⟩
  | done => exact .inr ⟨rfl, CoreState.completed_nextBlock_done hp ans⟩

/-- What the CORE shows at each phase of the order of R237. FINAL is not needed: once exhaustion is reported no block
waits again, so PROCESS_BLOCK is out of order before FINALIZE as well as after it. -/
def Phase.Fits : Phase → CoreState → Prop
  | .asking, c => c.blkValid = false
  | .holding, c => c.blkValid = true
  | .spent, c => c.pstate = .done ∧ c.blkValid = false
  | .final, c => c.pstate = .done ∧ c.blkValid = false

section Order

variable {p : Phase} {c : CoreState} (fits : p.Fits c)
include fits

/-- A block waits only at the phase `holding`. -/
theorem Phase.Fits.eq_holding (valid : c.blkValid = true) : p = .holding := by
  cases p with
  | holding => rfl
  | asking => exact nomatch valid.symm.trans fits
  | spent | final => exact nomatch valid.symm.trans fits.2

/-- No block waits and the Producer is not in Done only at the phase `asking`. -/
theorem Phase.Fits.eq_asking (empty : c.blkValid = false) (notDone : c.pstate ≠ .done) : p = .asking := by
  cases p with
  | asking => rfl
  | holding => exact nomatch empty.symm.trans fits
  | spent | final => exact absurd fits.1 notDone

/-- In Done with no block waiting, the order allows a report of exhaustion and a FINALIZE, and both stay there. -/
theorem Phase.Fits.next_of_done (empty : c.blkValid = false) {d : CoreState} (isDone : d.pstate = .done)
    (stillEmpty : d.blkValid = false) {e : Completed} (report : e = .exhausted ∨ e = .finalized) :
    ∃ q, p.next e = some q ∧ q.Fits d := by
  obtain rfl | rfl := report
  · cases p with
    | asking | spent => exact ⟨.spent, rfl, isDone, stillEmpty⟩
    | holding => exact nomatch empty.symm.trans fits
    | final => exact ⟨.final, rfl, isDone, stillEmpty⟩
  · cases p with
    | asking | spent | final => exact ⟨.final, rfl, isDone, stillEmpty⟩
    | holding => exact nomatch empty.symm.trans fits

end Order

/-- The completion of an accepted command but INIT that leaves FAULT = 0 goes on in the order of R237, whatever the Byte
Source answers. -/
theorem Phase.Fits.completed {p : Phase} {i : Instr} {s t : State} {ans : FillAnswer} (fits : p.Fits s.core)
    (notInit : i ≠ .init) (accepted : precondition i s.core = none)
    (core : t.core = (s.core.issue i).completed i ans) (clear : t.core.fault = false) :
    ∃ q, p.next (completedAs i t) = some q ∧ q.Fits t.core := by
  obtain ⟨nextBlock, processBlock, finalize⟩ := precondition_eq_none.mp accepted
  cases i with
  | init => exact absurd rfl notInit
  | nextBlock =>
    have empty : s.core.blkValid = false := nextBlock rfl
    rw [core] at clear
    obtain ⟨notDone, returned, valid⟩ | ⟨isDone, reports⟩ := CoreState.completed_nextBlock_of_clear clear
    · obtain rfl := fits.eq_asking empty notDone
      have event : completedAs .nextBlock t = .block := by
        simp only [completedAs, core, returned, Bool.false_eq_true, if_false]
      exact ⟨.holding, congrArg Phase.asking.next event, core ▸ valid⟩
    · rw [reports] at core
      have event : completedAs .nextBlock t = .exhausted := by
        simp only [completedAs, core, CoreState.finish_exhausted, CoreState.reportExhausted_exhausted, if_true]
      exact fits.next_of_done empty (core ▸ isDone) (core ▸ empty) (.inl event)
  | processBlock =>
    obtain rfl := fits.eq_holding (processBlock rfl).2
    exact ⟨.asking, rfl, by rw [core]; rfl⟩
  | finalize =>
    obtain ⟨isDone, empty⟩ := finalize rfl
    exact fits.next_of_done empty (core ▸ isDone) (core ▸ empty) (.inr rfl)

/-- From any phase, the commands of a fault-free sequence without INIT go on in the order of R237. -/
theorem Phase.Fits.commands_followOrder {cmds : List Instr} {p : Phase} {s : State} {done : List Completed}
    (fits : p.Fits s.core) (idle : s.core.busy = false) (noInit : .init ∉ cmds)
    (all : completedCommands cmds s = some done) : followsOrder p done = true := by
  induction cmds generalizing p s done with
  | nil =>
    obtain rfl := Option.some.inj all
    simp only [followsOrder]
  | cons i rest ih =>
    obtain ⟨t, later, next, clear, goesOn, rfl⟩ := completedCommands_cons all
    obtain ⟨accepted, core⟩ := doCommand_of_clear idle next clear
    have notInit : i ≠ .init := (List.ne_of_not_mem_cons noInit).symm
    obtain ⟨q, event, fits'⟩ := fits.completed notInit accepted core clear
    have idle' : t.core.busy = false := core ▸ (CoreState.completed_idle _ _ _).1
    simp only [followsOrder, event]
    exact ih fits' idle' (List.not_mem_of_not_mem_cons noInit) goesOn

/-- Settles O60: at reset no block waits, which fits the phase `asking`, and every command keeps to the order. -/
theorem faultFreeCommandsFollowTheOrder : Obligations.FaultFreeCommandsFollowTheOrder := by
  intro src cmds done noInit all
  have atReset : Phase.asking.Fits CoreState.reset := rfl
  exact atReset.commands_followOrder rfl noInit all

end Sys2Proof.Machine
end
